-- ==== Sys2Proof/Word.lean ====
section
/-! DEFINITION. The widths of 00_scope.md rule R7 as types, and nothing else. -/

namespace Sys2Proof

/-- A byte, met only by a byte-wide wrapper (20_memory.md R62). -/
abbrev Byte := BitVec 8

/-- A 32-bit value: a command word, a tuning word, a phase, NSAMP, the LFSR (R7, R80). -/
abbrev Word := BitVec 32

/-- An output sample: 16-bit two's complement, signed Q1.15 (R7, R10). -/
abbrev Sample := BitVec 16

/-- An unsigned Q1.15 gain, 0..32768 in 16 bits, 0x8000 meaning 1.0 (R7, R10). -/
abbrev Gain := BitVec 16

/-- An unsigned Q1.16 detune amount, 0..65536 in 17 bits (R7, R10). -/
abbrev Detune := BitVec 17

/-- An opaque 8-bit key identifier (R7, R82). -/
abbrev Key := BitVec 8

/-- A 64-bit tick count (R7, R30). -/
abbrev Ticks := BitVec 64

end Sys2Proof
end

