-- ==== Sys2Proof/Config.lean ====
section
/-! DEFINITION. The elaboration parameters of 00_scope.md rule R5, their defaults, and the free values
of the noise model DRAW, of BUF after reset, and of the output port while it offers no sample. -/

namespace Sys2Proof

/-- NOISE_MODEL (R5, R137, 93_implementation_defined.md I8): how WhiteNoise values are produced. -/
inductive NoiseModel where
  | lfsr
  | draw
deriving DecidableEq, Repr

/-- The parameters of R5. They are fixed for the life of the hardware and no transaction changes them
(R5, R45). Every definition of the model takes them as an argument, through `State.cfg`. Values outside
the legal ranges can be written down, and `Config.Legal` (WellFormed.lean) tells them apart, so that the
machine can refuse them (R6). -/
structure Config where
  /-- SAMPLE_RATE in Hz: 44100 or 48000. -/
  sampleRate : Nat
  /-- NUM_OSC, the oscillators per voice (N): 1 to 8. -/
  numOsc : Nat
  /-- MAX_VOICES, the number of voice slots: 1 to 64. -/
  maxVoices : Nat
  /-- BLOCK, the samples per render pass: 256 only. -/
  block : Nat
  /-- ATTACK_T in ticks: 0 to 2^32 - 1. -/
  attackT : Nat
  /-- DECAY_T in ticks: 0 to 2^32 - 1. -/
  decayT : Nat
  /-- SUSTAIN_LVL, unsigned Q1.15: 0 to 32768. -/
  sustainLvl : Nat
  /-- RELEASE_T in ticks: 0 to 2^32 - 1. -/
  releaseT : Nat
  /-- TICK_HZ: any positive integer. It scales how ticks are read as seconds and nothing else. -/
  tickHz : Nat
  /-- RESET_VOLUME, unsigned Q1.15: 0 to 32768. -/
  resetVolume : Nat
  /-- RESET_DETUNE, unsigned Q1.16: 0 to 65536. -/
  resetDetune : Nat
  /-- LFSR_SEED: 1 to 2^32 - 1, never 0. -/
  lfsrSeed : Nat
  /-- NOISE_MODEL. -/
  noise : NoiseModel
  /-- PASS_CYCLES, the clock cycles a render pass holds BUSY = 1: 1 or more. No transaction depends
  on it; only `Machine.edge`, the cycle-level reading of R90 to R92, counts it down. -/
  passCycles : Nat
deriving DecidableEq, Repr

/-- The default configuration of R5. DESIGN CHOICE (notes/assumptions/2.md): R5 leaves the default of
PASS_CYCLES open, and the model names 1. -/
def Config.default : Config where
  sampleRate := 44100
  numOsc := 4
  maxVoices := 16
  block := 256
  attackT := 100000
  decayT := 1000000
  sustainLvl := 32768
  releaseT := 350000
  tickHz := 1000000
  resetVolume := 32768
  resetDetune := 0
  lfsrSeed := 0xACE1ACE1
  noise := .lfsr
  passCycles := 1

/-- The free value of NOISE_MODEL = DRAW (R137, I8): draw number `n` is any of the 2^16 values
-32768..32767. It has no body, so nothing can be proved about a drawn value but its range. -/
opaque Config.noiseDraw : Nat → Sample

/-- The free values of BUF (R32, R260, I6): what entry `i` holds after reset number `n`, until a render pass
writes it. It has no body, so nothing can be proved about such an entry but its range. -/
opaque Config.bufAtReset : Nat → Nat → Sample

/-- The free values of `out_data` (R92, I7): what the output port carries at clock edge number `n` where
`out_valid = 0`. It has no body, so nothing can be proved about it but its range. -/
opaque Config.outDataIdle : Nat → Sample

end Sys2Proof
end

