-- ==== Sys2Proof/Syntax.lean ====
section
/-! DEFINITION. The command set as data: one constructor for each of the nine rows of
spec/opcode_table.json. -/

namespace Sys2Proof

/-- The command words of 30_encoding.md rule R81. Operands are the mathematical integers the decoding
column of R82 to R85 gives (R9); `Instr.wellFormed` (WellFormed.lean) says which of them a word can hold.
Reserved bits are no part of an instruction, because the block ignores them (R87). -/
inductive Instr where
  /-- op 0x0, R171. -/
  | nop
  /-- op 0x1, R172: key identifier, semitone index above C, octave. -/
  | noteOn (key : Key) (note oct : Nat)
  /-- op 0x2, R173. -/
  | noteOff (key : Key)
  /-- op 0x3, R174: the unsigned Q1.16 field. -/
  | setDetune (d : Nat)
  /-- op 0x4, R175. -/
  | toggleWave
  /-- op 0x5, R176: the signed Q1.15 field. -/
  | setVolume (v : Int)
  /-- op 0x6, R177. -/
  | clrStatus
  /-- op 0x7, R178: the first of the table's two illegal rows. -/
  | illegal7
  /-- op 0x8 to 0xF, R178: the second illegal row, which fixes bit 31 only. The word is not kept (R241). -/
  | illegalHigh
deriving DecidableEq, Repr

end Sys2Proof
end

