-- ==== Sys2Proof/WellFormed.lean ====
section
/-! DEFINITION. Which instructions a command word can hold, and which configurations have a machine. -/

namespace Sys2Proof

/-- The operand ranges of R82 to R85 and R94. A value inside them is never illegal: an unresolvable
note or octave, or a detune or volume beyond range, has a defined effect (R89). -/
def Instr.wellFormed : Instr → Bool
  | .noteOn _ note oct => decide (note ≤ 15) && decide (oct ≤ 15)
  | .setDetune d => decide (d ≤ 131071)
  | .setVolume v => decide (-65536 ≤ v) && decide (v ≤ 65535)
  | .nop | .noteOff _ | .toggleWave | .clrStatus | .illegal7 | .illegalHigh => true

/-- The legal values of R5. A configuration outside them is refused (R6). -/
abbrev Config.Legal (c : Config) : Prop :=
  (c.sampleRate = 44100 ∨ c.sampleRate = 48000)
  ∧ (1 ≤ c.numOsc ∧ c.numOsc ≤ 8)
  ∧ (1 ≤ c.maxVoices ∧ c.maxVoices ≤ 64)
  ∧ c.block = 256
  ∧ c.attackT < 2 ^ 32
  ∧ c.decayT < 2 ^ 32
  ∧ c.sustainLvl ≤ 32768
  ∧ c.releaseT < 2 ^ 32
  ∧ 1 ≤ c.tickHz
  ∧ c.resetVolume ≤ 32768
  ∧ c.resetDetune ≤ 65536
  ∧ (1 ≤ c.lfsrSeed ∧ c.lfsrSeed < 2 ^ 32)
  ∧ 1 ≤ c.passCycles

end Sys2Proof
end

