-- ==== Sys2Proof/Machine/State.lean ====
section
/-! DEFINITION. The state of the block (10_state.md), the inputs its four agents offer (R20), and why a
step can stop. Plain data throughout. -/

namespace Sys2Proof.Machine

/-! ## Names of fixed sets -/

/-- The waveform kinds of R23, in the source's order. The encodings 6 and 7 have no value here, so no
state holds them (R47). -/
inductive WaveKind where
  | sine
  | saw
  | square
  | pulse
  | triangle
  | whiteNoise
deriving DecidableEq, Repr

/-- The envelope stages of R33. The encodings 5 to 7 have no value here, so no state holds them (R47). -/
inductive Stage where
  | attack
  | decay
  | sustain
  | release
  | finished
deriving DecidableEq, Repr

/-- The internal storage arrays of 20_memory.md R61. -/
inductive StorageArray where
  | noteFtw
  | rsqrt
  | buf
  | slotFile
deriving DecidableEq, Repr

/-- The sticky status flags of R26 and R241. -/
inductive StatusFlag where
  | errIllegal
  | errFull
deriving DecidableEq, Repr

/-! ## Why a step stops -/

/-- The faults of R246. No state reachable from reset meets one, and no command raises one in a state
whose configuration is legal. -/
inductive Fault where
  /-- An index outside an array's range was formed (R61, R246, I13). Raised by the ROM and BUF reads, and
  by whatever visits the slot file where it has not MAX_VOICES slots. Safe: the spec gives no value there. -/
  | indexOutOfRange (array : StorageArray)
  /-- The state holds a CURSOR above 256 (R246, I13). Raised by `step` before any event, and
  by the output port. Safe: the spec asks for it. -/
  | cursorOutOfRange
deriving DecidableEq, Repr

/-- Why a step has no meaning. -/
inductive Refusal where
  /-- An instruction that has no meaning in the model yet. Raised by no arm of `exec`. Safe. -/
  | notModelled (mnemonic : String)
  /-- The configuration lies outside R5, and the model has no machine for it (R6, R246, I11). Raised by
  `step`. Safe: the spec asks for it. -/
  | illegalConfig
deriving DecidableEq, Repr

/-! ## The voice-slot file (R34) -/

/-- One NCO: the fields FTW[i] and PHASE[i] of R34. -/
structure Osc where
  ftw : Word
  phase : Word
deriving DecidableEq, Repr

/-- The fields of an occupied slot (R34). `oscs` holds oscillators 0 to NUM_OSC - 1 in order. -/
structure Voice where
  key : Key
  ftwBase : Word
  oscs : List Osc
  stage : Stage
  start : Ticks
  amp : Gain
  r0 : Gain
deriving DecidableEq, Repr

/-- One slot: OCC = 1 is `some`, and the fields of a slot with OCC = 0 hold no value and cannot be
read (R40). -/
abbrev Slot := Option Voice

/-! ## A render pass in progress (R27, R223, R230) -/

/-- What the block remembers while BUSY = 1: the latched time T of R223, and how many of the
PASS_CYCLES clock edges are left (R275). The transactions of R11 never leave one behind. -/
structure PassInFlight where
  time : Ticks
  left : Nat
deriving DecidableEq, Repr

/-! ## What the agents offer (R20, R90) -/

/-- The block's input pins at one rising edge of `clk` (R90). -/
structure Pins where
  rst : Bool
  tick : Bool
  cmdValid : Bool
  cmdData : Word
  outReady : Bool
deriving DecidableEq, Repr

/-- One step of one agent (R11, R20), or one clock edge at which several act together (R90 to R92,
R244). -/
inductive Event where
  /-- The control agent: one accepted command word. -/
  | command (w : Word)
  /-- The sink agent: one sample pull. -/
  | pull
  /-- The timebase: `k` consecutive ticks, which R30 allows to be one step. -/
  | tick (k : Nat)
  /-- The reset source: one edge with `rst = 1`. -/
  | reset
  /-- One rising clock edge with these input pins. -/
  | edge (p : Pins)
deriving DecidableEq, Repr

/-! ## The state -/

/-- The whole state: the parameters, which no transaction changes (R45); every state element of R44; and
five fields of the model's own, which stand for the environment or for a free value. -/
structure State where
  /-- The elaboration parameters (R5). Not state of the block (R45): no step changes them. -/
  cfg : Config
  /-- WAVE (R23). -/
  wave : WaveKind
  /-- VOLUME (R24). -/
  volume : Gain
  /-- DETUNE (R25). -/
  detune : Detune
  /-- ERR_ILLEGAL (R26). -/
  errIllegal : Bool
  /-- ERR_FULL (R26). -/
  errFull : Bool
  /-- NSAMP (R28). -/
  nsamp : Word
  /-- LFSR (R29). -/
  lfsr : Word
  /-- NOW (R30). -/
  now : Ticks
  /-- CURSOR (R31). -/
  cursor : BitVec 9
  /-- BUF (R32): the 256 entries a render pass wrote, or none, while every entry still holds what it held
  after reset. `State.bufRead` (Ops.lean) reads an entry. -/
  buf : List Sample
  /-- The slot file (R34): slots 0 to MAX_VOICES - 1 in order. -/
  slots : List Slot
  /-- BUSY (R27), with what a pass in progress remembers: BUSY = 1 is `some`. -/
  pass : Option PassInFlight
  /-- The model's own: how many free noise values have been drawn (NOISE_MODEL = DRAW). -/
  draws : Nat
  /-- The model's own: how many resets there have been, which names the free contents of BUF. -/
  resets : Nat
  /-- The model's own: how many clock edges there have been, which names the free values of `out_data`. -/
  edges : Nat
  /-- The model's own: the interleaving the four agents have chosen (R20), next event first. -/
  agenda : List Event
  /-- The model's own: the samples the sink agent has received, newest first. -/
  sink : List Sample
deriving DecidableEq, Repr

/-- BUSY (R27). -/
def State.busy (s : State) : Bool := s.pass.isSome

/-- The state after reset of a block elaborated with `c` (R44). No entry of BUF is written, so each holds a
free value (I6, notes/assumptions/3.md), and the fields of the free slots hold no value (R40). The fields of
the model's own start at 0 and empty: DESIGN CHOICE (notes/assumptions/5.md). -/
def State.resetWith (c : Config) : State where
  cfg := c
  wave := .sine
  volume := BitVec.ofNat 16 c.resetVolume
  detune := BitVec.ofNat 17 c.resetDetune
  errIllegal := false
  errFull := false
  nsamp := 0
  lfsr := BitVec.ofNat 32 c.lfsrSeed
  now := 0
  cursor := 256
  buf := []
  slots := List.replicate c.maxVoices none
  pass := none
  draws := 0
  resets := 0
  edges := 0
  agenda := []
  sink := []

/-- The machine right after reset, in the default configuration of R5. -/
def State.reset : State := State.resetWith Config.default

/-- What a transaction answers. -/
abbrev Result := Host.Outcome State Fault Refusal

end Sys2Proof.Machine
end

