-- ==== Sys2Proof/Machine/Flags.lean ====
section
/-! DEFINITION. The sticky status flags (10_state.md R26, 60_exceptions.md R241). They are all this block
has in place of exceptions: it has no trap, no cause register and no handler (R240). -/

namespace Sys2Proof.Machine

/-- `set_flag(F)`: the one operation by which an event is recorded (R9, R241). -/
def State.setFlag (s : State) : StatusFlag → State
  | .errIllegal => { s with errIllegal := true }
  | .errFull => { s with errFull := true }

/-- Both flags cleared, as CLR_STATUS does (R177). -/
def State.clearFlags (s : State) : State := { s with errIllegal := false, errFull := false }

/-- The value of `st_err`: bit 1 is ERR_FULL and bit 0 is ERR_ILLEGAL (R43). -/
def State.stErr (s : State) : BitVec 2 := BitVec.ofBool s.errFull ++ BitVec.ofBool s.errIllegal

end Sys2Proof.Machine
end

