-- ==== Sys2Proof/Machine/StatusCommands.lean ====
section
/-! DEFINITION. The commands about the status flags: NOP, CLR_STATUS and the illegal opcodes
(43_commands.md R171, R177, R178). -/

namespace Sys2Proof.Machine

/-- NOP (R171): no state changes. -/
def execNop (s : State) : Result := .next s

/-- CLR_STATUS (R177). -/
def execClrStatus (s : State) : Result := .next s.clearFlags

/-- Opcode 0x7 (R178): the word is consumed, ERR_ILLEGAL is set, and there is no trap. -/
def execIllegal7 (s : State) : Result := .next (s.setFlag .errIllegal)

/-- Opcodes 0x8 to 0xF (R178). -/
def execIllegalHigh (s : State) : Result := .next (s.setFlag .errIllegal)

end Sys2Proof.Machine
end

