-- ==== Sys2Proof/Machine/Fixed.lean ====
section
/-! DEFINITION. The integer primitives of 00_scope.md rule R9 and the constants of R5. -/

namespace Sys2Proof.Machine

/-- ONE: 1.0 in unsigned Q1.15, the full-scale amplitude (R5). -/
def ONE : Nat := 32768

/-- CLIP_LEVEL: the soft-clip threshold 0.95 in Q1.15 (R5, R205). -/
def CLIP_LEVEL : Int := 31130

/-- The samples of one render pass (R5: BLOCK is 256 only). -/
def BLOCK : Nat := 256

/-- `fdiv(a, b)`: floor(a / b), for b > 0 (R9). -/
def fdiv (a b : Int) : Int := a / b

/-- `asr(v, s)`: floor(v / 2^s), the arithmetic shift right (R9). -/
def asr (v : Int) (s : Nat) : Int := v / 2 ^ s

/-- `clamp(v, lo, hi)` (R9). -/
def clamp (v lo hi : Int) : Int := if v < lo then lo else if hi < v then hi else v

end Sys2Proof.Machine
end

