-- ==== Sys2Proof/Machine/Ops.lean ====
section
/-! DEFINITION. The named operations over the registers, the slot file and the block buffer, through which
every rule reads and writes them. Taking an exception has no operation here, since the block has no trap
(60_exceptions.md R240, R245): an event is recorded by `State.setFlag` (Flags.lean) and by nothing else. -/

namespace Sys2Proof.Machine

/-! ## Running one transaction after another -/

/-- Go on with `f` where `r` is a next state, and stop where `r` stops. -/
def andThen (r : Result) (f : State → Result) : Result :=
  match r with
  | .next s => f s
  | .fault x => .fault x
  | .refused x => .refused x

/-! ## Global registers -/

/-- `WAVE <- k` (R23). -/
def State.setWave (s : State) (k : WaveKind) : State := { s with wave := k }

/-- `VOLUME <- v` (R24). -/
def State.setVolume (s : State) (v : Gain) : State := { s with volume := v }

/-- `DETUNE <- d` (R25). -/
def State.setDetune (s : State) (d : Detune) : State := { s with detune := d }

/-- `NOW <- (NOW + k) mod 2^64` (R30). -/
def State.advanceNow (s : State) (k : Nat) : State := { s with now := s.now + BitVec.ofNat 64 k }

/-! ## The slot file (R34, R35) -/

/-- The slot file replaced. -/
def State.setSlots (s : State) (slots : List Slot) : State := { s with slots := slots }

/-- `f` applied to every voice, the free slots left free. -/
def mapVoices (f : Voice → Voice) (slots : List Slot) : List Slot := slots.map (Option.map f)

/-- The voices, in increasing slot number. -/
def voicesOf (slots : List Slot) : List Voice := slots.filterMap id

/-- V: the number of slots with OCC = 1 (R35). -/
def voiceCount (slots : List Slot) : Nat := slots.countP Option.isSome

/-- Whether a slot holds a voice with this key. -/
def Slot.hasKey (key : Key) : Slot → Bool
  | some v => v.key == key
  | none => false

/-- `FindKey(key)`: the slot that holds the key, or none (R179). Where no two voices share a key (R36) it
is the only one. -/
def findKey (slots : List Slot) (key : Key) : Option Nat := slots.findIdx? (Slot.hasKey key)

/-- `AllocSlot()`: the lowest-numbered free slot, or none (R180). -/
def allocSlot (slots : List Slot) : Option Nat := slots.findIdx? Option.isNone

/-- `f` applied to the voice in slot `i`. -/
def modifyVoice (slots : List Slot) (i : Nat) (f : Voice → Voice) : List Slot :=
  slots.modify i (Option.map f)

/-- Go on with `f` where the slot file has the slots 0 to MAX_VOICES - 1 of R61, and fault where it has
another number, so that visiting its slots would form an index outside that range (R246). -/
def onSlots (s : State) (f : State → Result) : Result :=
  if s.slots.length = s.cfg.maxVoices then f s else .fault (.indexOutOfRange .slotFile)

/-! ## The block buffer (R31, R32) -/

/-- The form BUF is kept in: no entry written since reset, or all 256 (R32). It is the only writable array of
20_memory.md R61 beside the slot file. Equal buffers are equal lists. -/
def Memory.wf (buf : List Sample) : Bool := buf.length == 0 || buf.length == BLOCK

/-- `MemRead(BUF, i)`, or none where BUF has no such entry (R61). An entry no pass has written since reset
holds a free value (R32, I6). -/
def State.bufRead (s : State) (i : Nat) : Option Sample :=
  if i < BLOCK then some ((s.buf[i]?).getD (Config.bufAtReset s.resets i)) else none

/-- The 256 entries of BUF written, and `CURSOR <- 0` (R226, R229). -/
def State.loadBlock (s : State) (block : List Sample) : State := { s with buf := block, cursor := 0 }

/-- One sample handed to the sink agent, and `CURSOR <- CURSOR + 1` (R92, R220). -/
def State.deliver (s : State) (x : Sample) : State :=
  { s with cursor := s.cursor + 1, sink := x :: s.sink }

/-- The pass in progress replaced: BUSY becomes 1 with `some` and 0 with `none` (R27, R230). -/
def State.setPass (s : State) (p : Option PassInFlight) : State := { s with pass := p }

/-- What the agents do next. -/
def State.setAgenda (s : State) (es : List Event) : State := { s with agenda := es }

/-- One clock edge counted, so that the next cycle's `out_data` is a new free value where it is unspecified
(R92, I7). -/
def State.countEdge (s : State) : State := { s with edges := s.edges + 1 }

/-! ## Reset (R260) -/

/-- The reset transaction: every state element of R44 takes its reset value, and a pass in progress is
abandoned. The parameters are no state (R45, R261), and what stands for the environment is not the block's
to reset: what the agents do next, what the sink has received, and the counts of free draws and of clock
edges. The count of resets goes up, so that BUF holds new free values (I6). -/
def State.resetBlock (s : State) : State :=
  { State.resetWith s.cfg with
    draws := s.draws, resets := s.resets + 1, edges := s.edges, agenda := s.agenda, sink := s.sink }

end Sys2Proof.Machine
end

