-- ==== Sys2Proof/Machine/Rom.lean ====
section
/-! DEFINITION. The three read-only tables of 20_memory.md R61, transcribed from the spec's normative
tables row by row. They are configuration, not state (R45). -/

namespace Sys2Proof.Machine

/-! ## The sine ROM (R132) -/

/-- SINE_Q[0..127], eight entries a row as R132 prints them. -/
def sineRowsLow : List (List Nat) :=
  [ [0, 201, 402, 603, 804, 1005, 1206, 1407],
    [1608, 1809, 2009, 2210, 2411, 2611, 2811, 3012],
    [3212, 3412, 3612, 3812, 4011, 4211, 4410, 4609],
    [4808, 5007, 5205, 5404, 5602, 5800, 5998, 6195],
    [6393, 6590, 6787, 6983, 7180, 7376, 7571, 7767],
    [7962, 8157, 8351, 8546, 8740, 8933, 9127, 9319],
    [9512, 9704, 9896, 10088, 10279, 10469, 10660, 10850],
    [11039, 11228, 11417, 11605, 11793, 11980, 12167, 12354],
    [12540, 12725, 12910, 13095, 13279, 13463, 13646, 13828],
    [14010, 14192, 14373, 14553, 14733, 14912, 15091, 15269],
    [15447, 15624, 15800, 15976, 16151, 16326, 16500, 16673],
    [16846, 17018, 17190, 17361, 17531, 17700, 17869, 18037],
    [18205, 18372, 18538, 18703, 18868, 19032, 19195, 19358],
    [19520, 19681, 19841, 20001, 20160, 20318, 20475, 20632],
    [20788, 20943, 21097, 21251, 21403, 21555, 21706, 21856],
    [22006, 22154, 22302, 22449, 22595, 22740, 22884, 23028] ]

/-- SINE_Q[128..256]. -/
def sineRowsHigh : List (List Nat) :=
  [ [23170, 23312, 23453, 23593, 23732, 23870, 24008, 24144],
    [24279, 24414, 24548, 24680, 24812, 24943, 25073, 25202],
    [25330, 25457, 25583, 25708, 25833, 25956, 26078, 26199],
    [26320, 26439, 26557, 26674, 26791, 26906, 27020, 27133],
    [27246, 27357, 27467, 27576, 27684, 27791, 27897, 28002],
    [28106, 28209, 28311, 28411, 28511, 28610, 28707, 28803],
    [28899, 28993, 29086, 29178, 29269, 29359, 29448, 29535],
    [29622, 29707, 29792, 29875, 29957, 30038, 30118, 30196],
    [30274, 30350, 30425, 30499, 30572, 30644, 30715, 30784],
    [30853, 30920, 30986, 31050, 31114, 31177, 31238, 31298],
    [31357, 31415, 31471, 31527, 31581, 31634, 31686, 31737],
    [31786, 31834, 31881, 31927, 31972, 32015, 32058, 32099],
    [32138, 32177, 32214, 32251, 32286, 32319, 32352, 32383],
    [32413, 32442, 32470, 32496, 32522, 32546, 32568, 32590],
    [32610, 32629, 32647, 32664, 32679, 32693, 32706, 32718],
    [32729, 32738, 32746, 32753, 32758, 32762, 32766, 32767],
    [32767] ]

/-- SINE_Q as one list. -/
def sineTable : List Nat := sineRowsLow.flatten ++ sineRowsHigh.flatten

theorem sineTable_length : sineTable.length = 257 := by
  rw [sineTable, List.length_append, List.length_flatten, List.length_flatten]
  rfl

/-- `MemRead(SINE_Q, j)`. The index type admits 0..256 only, so no rule can leave the array (R61). -/
def sineQ (j : Fin 257) : Int := (sineTable.get (j.cast sineTable_length.symm) : Nat)

/-! ## The tuning ROM (R151) -/

/-- NOTE_FTW for SAMPLE_RATE = 44100: one row an octave 0..8, C to B in each. -/
def noteFtw44100 : List (List Nat) :=
  [ [1592507, 1687203, 1787529, 1893821, 2006434, 2125742, 2252146, 2386065, 2527948, 2678268, 2837526, 3006254],
    [3185015, 3374406, 3575058, 3787642, 4012867, 4251485, 4504291, 4772130, 5055896, 5356535, 5675051, 6012507],
    [6370030, 6748811, 7150117, 7575285, 8025735, 8502970, 9008582, 9544261, 10111792, 10713070, 11350103, 12025015],
    [12740059, 13497623, 14300233, 15150569, 16051469, 17005939, 18017165, 19088521, 20223584, 21426141, 22700205, 24050030],
    [25480119, 26995246, 28600467, 30301139, 32102938, 34011878, 36034330, 38177043, 40447168, 42852281, 45400411, 48100060],
    [50960238, 53990491, 57200933, 60602278, 64205876, 68023757, 72068660, 76354085, 80894335, 85704563, 90800821, 96200119],
    [101920476, 107980983, 114401866, 121204555, 128411753, 136047513, 144137319, 152708170, 161788671, 171409126, 181601643, 192400238],
    [203840952, 215961966, 228803732, 242409110, 256823506, 272095026, 288274639, 305416341, 323577341, 342818251, 363203285, 384800477],
    [407681904, 431923931, 457607465, 484818220, 513647012, 544190053, 576549277, 610832681, 647154683, 685636503, 726406571, 769600953] ]

/-- NOTE_FTW for SAMPLE_RATE = 48000. -/
def noteFtw48000 : List (List Nat) :=
  [ [1463116, 1550118, 1642292, 1739948, 1843411, 1953026, 2069159, 2192197, 2322552, 2460658, 2606977, 2761996],
    [2926232, 3100235, 3284585, 3479896, 3686822, 3906052, 4138318, 4384395, 4645104, 4921317, 5213953, 5523991],
    [5852465, 6200470, 6569170, 6959793, 7373644, 7812103, 8276635, 8768789, 9290209, 9842633, 10427907, 11047982],
    [11704930, 12400941, 13138339, 13919586, 14747287, 15624207, 16553270, 17537579, 18580418, 19685267, 20855814, 22095965],
    [23409859, 24801882, 26276679, 27839171, 29494575, 31248413, 33106541, 35075158, 37160835, 39370534, 41711627, 44191930],
    [46819719, 49603764, 52553357, 55678342, 58989149, 62496826, 66213081, 70150316, 74321671, 78741067, 83423255, 88383859],
    [93639437, 99207528, 105106715, 111356685, 117978298, 124993653, 132426162, 140300631, 148643341, 157482134, 166846509, 176767719],
    [187278874, 198415056, 210213429, 222713370, 235956596, 249987305, 264852324, 280601263, 297286682, 314964268, 333693018, 353535438],
    [374557749, 396830112, 420426858, 445426740, 471913192, 499974611, 529704648, 561202526, 594573365, 629928537, 667386037, 707070876] ]

/-- The table SAMPLE_RATE selects (R5, R151): there is none for any other rate. -/
def noteFtwTable (sampleRate : Nat) : Option (List (List Nat)) :=
  if sampleRate = 44100 then some noteFtw44100
  else if sampleRate = 48000 then some noteFtw48000
  else none

/-- `MemRead(NOTE_FTW, (oct, note))`, or none where the array has no such entry (R61). -/
def noteFtw (sampleRate oct note : Nat) : Option Word :=
  match noteFtwTable sampleRate with
  | none => none
  | some table =>
    match table[oct]? with
    | none => none
    | some row => (row[note]?).map (BitVec.ofNat 32)

/-! ## The reciprocal-square-root ROM (R206) -/

/-- RSQRT[1..64], eight entries a row as R206 prints them. -/
def rsqrtRows : List (List Nat) :=
  [ [32768, 23170, 18919, 16384, 14654, 13377, 12385, 11585],
    [10923, 10362, 9880, 9459, 9088, 8758, 8461, 8192],
    [7947, 7723, 7517, 7327, 7151, 6986, 6833, 6689],
    [6554, 6426, 6306, 6193, 6085, 5983, 5885, 5793],
    [5704, 5620, 5539, 5461, 5387, 5316, 5247, 5181],
    [5118, 5056, 4997, 4940, 4885, 4831, 4780, 4730],
    [4681, 4634, 4588, 4544, 4501, 4459, 4418, 4379],
    [4340, 4303, 4266, 4230, 4196, 4162, 4128, 4096] ]

/-- `MemRead(RSQRT, k)` for k = 1..64, or none where the array has no such entry (R61, R206). -/
def rsqrt (k : Nat) : Option Nat :=
  if k = 0 then none else rsqrtRows.flatten[k - 1]?

end Sys2Proof.Machine
end

