-- ==== Sys2Proof/Machine/Nco.lean ====
section
/-! DEFINITION. The NCO bank: 42_nco.md. -/

namespace Sys2Proof.Machine

/-- The semitone offset from A4 of a pitch class (R150). The tuning ROM (Rom.lean) holds what R151 makes
of it. -/
def semitoneOffset (note oct : Nat) : Int := ((oct : Int) - 4) * 12 + ((note : Int) - 9)

/-- `DetunedFTW(B, D, i)` for a bank of `n` oscillators (R153), and B alone for `n = 1` (R154). -/
def detunedFtw (n : Nat) (b : Word) (d : Detune) (i : Nat) : Word :=
  if n = 1 then b
  else
    let num : Int := b.toNat * d.toNat * (2 * (i : Int) - ((n : Int) - 1))
    let den : Int := 2 * ((n : Int) - 1) * 65536
    BitVec.ofInt 32 (b.toNat + fdiv num den)

/-- Oscillator `i` tuned anew: its tuning word (R153) and the phase reload that goes with it (R157). -/
def tuneOsc (n : Nat) (nsamp b : Word) (d : Detune) (i : Nat) : Osc :=
  { ftw := detunedFtw n b d i, phase := nsamp * detunedFtw n b d i }

/-- The bank of a voice with base tuning word `b`, oscillators 0 to n - 1. -/
def tuneBank (n : Nat) (nsamp b : Word) (d : Detune) : List Osc :=
  (List.range n).map (tuneOsc n nsamp b d)

/-- One voice retuned in place (R174). -/
def Voice.retune (n : Nat) (nsamp : Word) (d : Detune) (v : Voice) : Voice :=
  { v with oscs := tuneBank n nsamp v.ftwBase d }

/-- The phase advance of one oscillator after a sample (R156). -/
def Osc.advance (o : Osc) : Osc := { o with phase := o.phase + o.ftw }

/-- The phase advance of one voice (R156). -/
def Voice.advance (v : Voice) : Voice := { v with oscs := v.oscs.map Osc.advance }

end Sys2Proof.Machine
end

