-- ==== Sys2Proof/Machine/Operands.lean ====
section
/-! DEFINITION. How a command reads its operands: the resolvable pitch classes and the two saturating
fields. -/

namespace Sys2Proof.Machine

/-- Whether (note, oct) is a pitch class: note in 0..11 and oct in 0..8 (R82, R150, R172). -/
def resolvable (note oct : Nat) : Bool := decide (note ≤ 11) && decide (oct ≤ 8)

/-- `min(d, 65536)`: the detune field clamped to 1.0 (R174). -/
def clampDetune (d : Nat) : Detune := BitVec.ofNat 17 (min d 65536)

/-- `clamp(v, 0, 32768)`: the signed volume field clamped to 0..1.0 (R176). -/
def clampVolume (v : Int) : Gain := BitVec.ofInt 16 (clamp v 0 32768)

end Sys2Proof.Machine
end

