-- ==== Sys2Proof/Decode.lean ====
section
/-! DEFINITION. From a word (or a wrapper's bytes) to an instruction and back: 30_encoding.md rules R80
to R89. -/

namespace Sys2Proof

/-! ## Bit fields (R8, R9) -/

/-- `v[hi:lo]`: the field of `v` from bit `hi` down to bit `lo`, read as an unsigned integer (R8). -/
def bits {n : Nat} (v : BitVec n) (hi lo : Nat) : Nat :=
  v.toNat / 2 ^ lo % 2 ^ (hi - lo + 1)

/-- `sext_N(v)`: `v - 2^N` if `v[N-1] = 1`, else `v` (R9). -/
def sext (n v : Nat) : Int :=
  if v / 2 ^ (n - 1) % 2 = 1 then (v : Int) - 2 ^ n else v

/-! ## The opcode table -/

/-- One row of the opcode table: a word belongs to it when its bits under the mask equal `value`. -/
structure Row where
  mnemonic : String
  mask : Word
  value : Word
deriving DecidableEq, Repr

/-- The nine rows of spec/opcode_table.json, in its order (R81). -/
def opcodeRows : List Row :=
  [ ⟨"NOP", 0xF0000000, 0x00000000⟩,
    ⟨"NOTE_ON", 0xF0000000, 0x10000000⟩,
    ⟨"NOTE_OFF", 0xF0000000, 0x20000000⟩,
    ⟨"SET_DETUNE", 0xF0000000, 0x30000000⟩,
    ⟨"TOGGLE_WAVE", 0xF0000000, 0x40000000⟩,
    ⟨"SET_VOLUME", 0xF0000000, 0x50000000⟩,
    ⟨"CLR_STATUS", 0xF0000000, 0x60000000⟩,
    ⟨"ILLEGAL", 0xF0000000, 0x70000000⟩,
    ⟨"ILLEGAL", 0x80000000, 0x80000000⟩ ]

/-- Whether a word belongs to a row. -/
def Row.accepts (r : Row) (w : Word) : Bool := w &&& r.mask == r.value

/-- The place in `opcodeRows` of the row an instruction stands for. -/
def Instr.rowIndex : Instr → Nat
  | .nop => 0
  | .noteOn _ _ _ => 1
  | .noteOff _ => 2
  | .setDetune _ => 3
  | .toggleWave => 4
  | .setVolume _ => 5
  | .clrStatus => 6
  | .illegal7 => 7
  | .illegalHigh => 8

/-! ## Decoding a command word -/

/-- The decoder. It selects the command from `op = cmd[31:28]` alone (R80, R81), reads the fields of the
command's format (R82 to R86), and ignores the reserved bits (R87). It is total: every word decodes (R89). -/
def decodeWord (w : Word) : Instr :=
  match bits w 31 28 with
  | 0 => .nop
  | 1 => .noteOn (BitVec.ofNat 8 (bits w 7 0)) (bits w 11 8) (bits w 15 12)
  | 2 => .noteOff (BitVec.ofNat 8 (bits w 7 0))
  | 3 => .setDetune (bits w 16 0)
  | 4 => .toggleWave
  | 5 => .setVolume (sext 17 (bits w 16 0))
  | 6 => .clrStatus
  | 7 => .illegal7
  | _ => .illegalHigh

/-! ## Bytes, for a byte-wide wrapper (R62) -/

/-- Why a byte stream gives no command. -/
inductive DecodeError where
  /-- Fewer than four bytes are left: no command of another length exists (R80). Raised by `wordOfBytes`;
  safe, because the block itself moves whole words only (R63). -/
  | truncated (left : Nat)
deriving DecidableEq, Repr

/-- The first command word of a byte stream, least significant byte first (R62), and the rest. -/
def wordOfBytes : List Byte → Except DecodeError (Word × List Byte)
  | b0 :: b1 :: b2 :: b3 :: rest =>
    .ok (BitVec.ofNat 32 (b0.toNat + 2 ^ 8 * b1.toNat + 2 ^ 16 * b2.toNat + 2 ^ 24 * b3.toNat), rest)
  | bs => .error (.truncated bs.length)

/-- The four bytes of a command word, least significant byte first (R62). -/
def bytesOfWord (w : Word) : List Byte :=
  [BitVec.ofNat 8 (bits w 7 0), BitVec.ofNat 8 (bits w 15 8), BitVec.ofNat 8 (bits w 23 16),
    BitVec.ofNat 8 (bits w 31 24)]

/-- Decode the first command of a byte stream. Total on any bytes: a stream that is too short is
rejected by name. -/
def decode (bs : List Byte) : Except DecodeError (Instr × List Byte) :=
  match wordOfBytes bs with
  | .ok (w, rest) => .ok (decodeWord w, rest)
  | .error e => .error e

/-- The instruction the decoder reads from a table row's bits `w`, numbered as spec/opcode_table.json
numbers them: the word is laid out in bytes and given to `decode`. A command longer than 32 bits does
not exist (R80). -/
def decodeTableWord (nbits w : Nat) : Option Instr :=
  if nbits ≤ 32 then
    match decode (bytesOfWord (BitVec.ofNat 32 (w % 2 ^ nbits))) with
    | .ok (i, _) => some i
    | .error _ => none
  else none

/-! ## Encoding -/

/-- A command word from its opcode (bits 31:28) and its operand fields (bits 27:0). -/
def assembleWord (op operands : Nat) : Word := BitVec.ofNat 32 (op * 2 ^ 28 + operands)

/-- The canonical word of an instruction, reserved bits zero (R82 to R86). The illegal rows are written
as the least word each of them covers. -/
def encode : Instr → Word
  | .nop => assembleWord 0x0 0
  | .noteOn key note oct => assembleWord 0x1 (oct * 2 ^ 12 + note * 2 ^ 8 + key.toNat)
  | .noteOff key => assembleWord 0x2 key.toNat
  | .setDetune d => assembleWord 0x3 d
  | .toggleWave => assembleWord 0x4 0
  | .setVolume v => assembleWord 0x5 (v % 2 ^ 17).toNat
  | .clrStatus => assembleWord 0x6 0
  | .illegal7 => assembleWord 0x7 0
  | .illegalHigh => assembleWord 0x8 0

end Sys2Proof
end

