-- ==== Sys2Proof/Machine/Waveform.lean ====
section
/-! DEFINITION. The waveform generator: 41_waveform.md. -/

namespace Sys2Proof.Machine

/-- `Succ(kind)`: the toggle order (R138). -/
def WaveKind.succ : WaveKind → WaveKind
  | .sine => .saw
  | .saw => .square
  | .square => .pulse
  | .pulse => .triangle
  | .triangle => .whiteNoise
  | .whiteNoise => .sine

/-- The 3-bit encoding of WAVE (R23). -/
def WaveKind.code : WaveKind → BitVec 3
  | .sine => 0
  | .saw => 1
  | .square => 2
  | .pulse => 3
  | .triangle => 4
  | .whiteNoise => 5

/-- The 3-bit encoding of STAGE (R33). -/
def Stage.code : Stage → BitVec 3
  | .attack => 0
  | .decay => 1
  | .sustain => 2
  | .release => 3
  | .finished => 4

/-- Entry `j` of the sine ROM for a low index byte, and its mirror `256 - j` (R131). -/
def sineUp (j : Nat) (h : j < 256) : Int := sineQ ⟨j, by omega⟩

def sineDown (j : Nat) : Int := sineQ ⟨256 - j, by omega⟩

/-- Sine (R131): the top ten phase bits address the quarter-wave ROM, with no interpolation. -/
def waveSine (ph : Word) : Int :=
  let k := bits ph 31 22
  let j := k % 256
  have h : j < 256 := Nat.mod_lt _ (by decide)
  match k / 256 with
  | 0 => sineUp j h
  | 1 => sineDown j
  | 2 => -sineUp j h
  | _ => -sineDown j

/-- Saw (R133), from the top sixteen phase bits `h`. -/
def waveSaw (h : Nat) : Int := (h : Int) - 32768

/-- Square (R134). -/
def waveSquare (h : Nat) : Int := if h < 32768 then 32767 else -32768

/-- Pulse (R135). -/
def wavePulse (h : Nat) : Int := if h < 16384 then 32767 else -32768

/-- Triangle (R136). -/
def waveTriangle (h : Nat) : Int :=
  if h < 16384 then 2 * (h : Int)
  else if h < 49152 then min 32767 (65536 - 2 * (h : Int))
  else 2 * (h : Int) - 131072

/-! ## White noise (R137) -/

/-- The two things a noise evaluation reads and steps: the LFSR, and the count of free draws. -/
structure Noise where
  lfsr : Word
  draws : Nat
deriving DecidableEq, Repr

/-- One step of the Galois register for x^32 + x^22 + x^2 + x + 1 (R137). -/
def lfsrStep (r : Word) : Word :=
  if bits r 0 0 = 1 then (r >>> 1) ^^^ 0x80200003 else r >>> 1

/-- WhiteNoise (R137): with NOISE_MODEL = LFSR the register steps and gives its low 16 bits, read as a
signed number; with NOISE_MODEL = DRAW the value is free and the register stays (I8). -/
def waveNoise (m : NoiseModel) (n : Noise) : Int × Noise :=
  match m with
  | .lfsr => (sext 16 (bits (lfsrStep n.lfsr) 15 0), { n with lfsr := lfsrStep n.lfsr })
  | .draw => ((Config.noiseDraw n.draws).toInt, { n with draws := n.draws + 1 })

/-- `Wave(kind, ph)` (R130): a function of the kind and the phase, but for WhiteNoise, which ignores the
phase and steps the noise source. -/
def waveGen (m : NoiseModel) (kind : WaveKind) (ph : Word) (n : Noise) : Int × Noise :=
  match kind with
  | .sine => (waveSine ph, n)
  | .saw => (waveSaw (bits ph 31 16), n)
  | .square => (waveSquare (bits ph 31 16), n)
  | .pulse => (wavePulse (bits ph 31 16), n)
  | .triangle => (waveTriangle (bits ph 31 16), n)
  | .whiteNoise => waveNoise m n

end Sys2Proof.Machine
end

