-- ==== Sys2Proof/Machine/ToneCommands.lean ====
section
/-! DEFINITION. The commands that set how every voice sounds: SET_DETUNE, TOGGLE_WAVE and SET_VOLUME
(43_commands.md R174 to R176). -/

namespace Sys2Proof.Machine

/-- SET_DETUNE on the slots (R174): DETUNE is written, and every live voice retuned in place with its phases
reloaded. -/
def retuneSlots (d : Nat) (s : State) : Result :=
  .next ((s.setDetune (clampDetune d)).setSlots
    (mapVoices (Voice.retune s.cfg.numOsc s.nsamp (clampDetune d)) s.slots))

/-- SET_DETUNE d (R174). -/
def execSetDetune (d : Nat) (s : State) : Result := onSlots s (retuneSlots d)

/-- TOGGLE_WAVE (R175). -/
def execToggleWave (s : State) : Result := .next (s.setWave s.wave.succ)

/-- SET_VOLUME v (R176). -/
def execSetVolume (v : Int) (s : State) : Result := .next (s.setVolume (clampVolume v))

end Sys2Proof.Machine
end

