-- ==== Sys2Proof/Machine/Envelope.lean ====
section
/-! DEFINITION. The envelope state machine: 40_envelope.md. -/

namespace Sys2Proof.Machine

/-- trigger_attack (R102): the envelope fields of a newly allocated slot. -/
def Voice.triggerAttack (now : Ticks) (v : Voice) : Voice :=
  { v with stage := .attack, start := now, amp := 0, r0 := 0 }

/-- trigger_release (R103): Release from the stored amplitude, and no change in Release or Finished. -/
def Voice.triggerRelease (now : Ticks) (v : Voice) : Voice :=
  match v.stage with
  | .release | .finished => v
  | .attack | .decay | .sustain => { v with r0 := v.amp, stage := .release, start := now }

/-- The elapsed time of R104: `(T - START) mod 2^64`, in ticks. -/
def Voice.elapsed (t : Ticks) (v : Voice) : Nat := (t - v.start).toNat

/-- The Attack ramp below its duration (R105). -/
def attackAmp (atk e : Nat) : Nat := min ONE (e * ONE / atk)

/-- The Decay ramp below its duration (R106). -/
def decayAmp (dec sus e : Nat) : Nat := max sus (ONE - e * (ONE - sus) / dec)

/-- The Release ramp below its duration (R108). The spec's `max` with 0 never acts. -/
def releaseAmp (rel r0 e : Nat) : Nat := r0 * (rel - e) / rel

/-- An amplitude stored in AMP. -/
def toGain (a : Nat) : Gain := BitVec.ofNat 16 a

/-- update in Attack (R105). -/
def Voice.updateAttack (c : Config) (t : Ticks) (v : Voice) : Voice :=
  if c.attackT ≤ v.elapsed t then { v with stage := .decay, start := t, amp := toGain ONE }
  else { v with amp := toGain (attackAmp c.attackT (v.elapsed t)) }

/-- update in Decay (R106). -/
def Voice.updateDecay (c : Config) (t : Ticks) (v : Voice) : Voice :=
  if c.decayT ≤ v.elapsed t then { v with stage := .sustain, start := t, amp := toGain c.sustainLvl }
  else { v with amp := toGain (decayAmp c.decayT c.sustainLvl (v.elapsed t)) }

/-- update in Sustain (R107). -/
def Voice.updateSustain (c : Config) (v : Voice) : Voice := { v with amp := toGain c.sustainLvl }

/-- update in Release (R108). -/
def Voice.updateRelease (c : Config) (t : Ticks) (v : Voice) : Voice :=
  if c.releaseT ≤ v.elapsed t then { v with stage := .finished, start := t, amp := 0 }
  else { v with amp := toGain (releaseAmp c.releaseT v.r0.toNat (v.elapsed t)) }

/-- update in Finished (R109). -/
def Voice.updateFinished (v : Voice) : Voice := { v with amp := 0 }

/-- update(s, T) (R104): exactly one of R105 to R109, chosen by STAGE. -/
def Voice.update (c : Config) (t : Ticks) (v : Voice) : Voice :=
  match v.stage with
  | .attack => v.updateAttack c t
  | .decay => v.updateDecay c t
  | .sustain => v.updateSustain c
  | .release => v.updateRelease c t
  | .finished => v.updateFinished

/-- is_finished(s) (R111). -/
def Voice.isFinished (v : Voice) : Bool := v.stage == .finished

end Sys2Proof.Machine
end

