-- ==== Sys2Proof/Machine/VoiceCommands.lean ====
section
/-! DEFINITION. The commands that start and release voices: NOTE_ON and NOTE_OFF (43_commands.md R172,
R173). -/

namespace Sys2Proof.Machine

/-- The voice NOTE_ON puts in a newly allocated slot (R172). -/
def newVoice (s : State) (key : Key) (base : Word) : Voice :=
  Voice.triggerAttack s.now
    { key := key, ftwBase := base, oscs := tuneBank s.cfg.numOsc s.nsamp base s.detune,
      stage := .attack, start := s.now, amp := 0, r0 := 0 }

/-- The last case of R172: slot `i` is allocated, and its base tuning word read from the tuning ROM. -/
def startVoice (key : Key) (note oct i : Nat) (s : State) : Result :=
  match noteFtw s.cfg.sampleRate oct note with
  | some base => .next (s.setSlots (s.slots.set i (some (newVoice s key base))))
  | none => .fault (.indexOutOfRange .noteFtw)

/-- NOTE_ON of a resolvable pitch class (R172): an active key, a full slot file, or a new voice. -/
def noteOnSlots (key : Key) (note oct : Nat) (s : State) : Result :=
  match findKey s.slots key, allocSlot s.slots with
  | some _, _ => .next s
  | none, none => .next (s.setFlag .errFull)
  | none, some i => startVoice key note oct i s

/-- NOTE_ON key, note, oct (R172), its tests in the order of R244. -/
def execNoteOn (key : Key) (note oct : Nat) (s : State) : Result :=
  if !resolvable note oct then .next s else onSlots s (noteOnSlots key note oct)

/-- NOTE_OFF on the slots (R173): no voice with the key, or its release. -/
def noteOffSlots (key : Key) (s : State) : Result :=
  match findKey s.slots key with
  | none => .next s
  | some i => .next (s.setSlots (modifyVoice s.slots i (Voice.triggerRelease s.now)))

/-- NOTE_OFF key (R173). -/
def execNoteOff (key : Key) (s : State) : Result := onSlots s (noteOffSlots key)

end Sys2Proof.Machine
end

