-- ==== Sys2Proof/Machine/Dispatch.lean ====
section
/-! DEFINITION. The meaning of every command of 43_commands.md: one arm per constructor of Instr. -/

namespace Sys2Proof.Machine

/-- What an accepted command does (R170): exactly one of R171 to R178. -/
def exec (i : Instr) (s : State) : Host.Outcome State Fault Refusal :=
  match i with
  | .nop => Sys2Proof.Machine.execNop s
  | .noteOn key note oct => Sys2Proof.Machine.execNoteOn key note oct s
  | .noteOff key => Sys2Proof.Machine.execNoteOff key s
  | .setDetune d => Sys2Proof.Machine.execSetDetune d s
  | .toggleWave => Sys2Proof.Machine.execToggleWave s
  | .setVolume v => Sys2Proof.Machine.execSetVolume v s
  | .clrStatus => Sys2Proof.Machine.execClrStatus s
  | .illegal7 => Sys2Proof.Machine.execIllegal7 s
  | .illegalHigh => Sys2Proof.Machine.execIllegalHigh s

end Sys2Proof.Machine
end

