-- ==== Sys2Proof/Machine/Mixer.lean ====
section
/-! DEFINITION. The sample accumulator, the normalisations and the soft clip: 44_mixer.md. All arithmetic
is on integers, reduced only where a rule says. -/

namespace Sys2Proof.Machine

/-- `S[s]`: the sum of a voice's oscillators, evaluated in increasing i (R200, R201). -/
def oscSum (m : NoiseModel) (kind : WaveKind) : List Osc → Noise → Int × Noise
  | [], n => (0, n)
  | o :: os, n =>
    let w := waveGen m kind o.phase n
    let rest := oscSum m kind os w.2
    (w.1 + rest.1, rest.2)

/-- `u[s]`: the oscillator-count normalisation by RSQRT[N] (R202). -/
def normalise (gainN : Nat) (sum : Int) : Int := asr (sum * gainN) 15

/-- `a[s]`: the envelope gain (R203). -/
def applyAmp (amp : Gain) (u : Int) : Int := asr (u * amp.toNat) 15

/-- `y[s]`: the master-volume gain (R203). -/
def applyVolume (volume : Gain) (a : Int) : Int := asr (a * volume.toNat) 15

/-- What R225 fixes for the 256 samples of a pass: WAVE, VOLUME, RSQRT[N], and the polyphonic factor G. -/
structure MixContext where
  noiseModel : NoiseModel
  kind : WaveKind
  volume : Gain
  gainN : Nat
  gainV : Nat
deriving DecidableEq, Repr

/-- `y[s]` of one voice, from its oscillator sum (R202, R203). -/
def voiceLevel (x : MixContext) (v : Voice) (sum : Int) : Int :=
  applyVolume x.volume (applyAmp v.amp (normalise x.gainN sum))

/-- One voice's contribution to a sample, and the noise source after it. -/
def voiceSample (x : MixContext) (v : Voice) (n : Noise) : Int × Noise :=
  let sum := oscSum x.noiseModel x.kind v.oscs n
  (voiceLevel x v sum.1, sum.2)

/-- Whether a slot is in the mix set L: occupied, and not Finished (R225). -/
def Slot.mixed : Slot → Bool
  | some v => !v.isFinished
  | none => false

/-- `M`: the sum over the mix set L in increasing s (R201, R204). -/
def mixSum (x : MixContext) : List Slot → Noise → Int × Noise
  | [], n => (0, n)
  | none :: rest, n => mixSum x rest n
  | some v :: rest, n =>
    if v.isFinished then mixSum x rest n
    else
      let y := voiceSample x v n
      let more := mixSum x rest y.2
      (y.1 + more.1, more.2)

/-- The polyphonic factor G: 1.0 for V ≤ 1, else RSQRT[V] (R204). None where RSQRT has no entry V (R61). -/
def polyGain (voices : Nat) : Option Nat := if voices ≤ 1 then some ONE else rsqrt voices

/-- `P`: the polyphonic scaling (R204). -/
def polyScale (gainV : Nat) (sum : Int) : Int := asr (sum * gainV) 15

/-- The soft clip (R205): a hard limit at ±CLIP_LEVEL. -/
def softClip (p : Int) : Int := clamp p (-CLIP_LEVEL) CLIP_LEVEL

/-- One output sample as its 16-bit pattern, and the noise source after it (R200 to R205). -/
def mixSample (x : MixContext) (slots : List Slot) (n : Noise) : Sample × Noise :=
  let sum := mixSum x slots n
  (BitVec.ofInt 16 (softClip (polyScale x.gainV sum.1)), sum.2)

end Sys2Proof.Machine
end

