-- ==== Sys2Proof/Machine/Render.lean ====
section
/-! DEFINITION. The render pass and the pull transaction: 45_render.md. -/

namespace Sys2Proof.Machine

/-- What the sample loop of a pass changes beside BUF: the slot file, NSAMP and the noise source. -/
structure PassState where
  slots : List Slot
  nsamp : Word
  noise : Noise
deriving DecidableEq, Repr

/-- One round of the sample loop (R226, R227): one sample mixed, then the sample clock and every phase
accumulator of every occupied slot advanced. -/
def sampleStep (x : MixContext) (p : PassState) : Sample × PassState :=
  let out := mixSample x p.slots p.noise
  (out.1, { slots := mapVoices Voice.advance p.slots, nsamp := p.nsamp + 1, noise := out.2 })

/-- The sample loop: `k` samples in order, and what it leaves. -/
def sampleLoop (x : MixContext) : Nat → PassState → List Sample × PassState
  | 0, p => ([], p)
  | k + 1, p =>
    let one := sampleStep x p
    let rest := sampleLoop x k one.2
    (one.1 :: rest.1, rest.2)

/-- Eviction (R228): every Finished voice's slot is freed. -/
def evict (slots : List Slot) : List Slot :=
  slots.map fun slot => if Slot.mixed slot then slot else none

/-- The slot file after the update phase at time `t` (R224). -/
def updatePhase (c : Config) (t : Ticks) (slots : List Slot) : List Slot :=
  mapVoices (Voice.update c t) slots

/-- What the pass holds fixed (R225), or none where RSQRT has no entry for N or V (R61). -/
def mixContext (s : State) (slots : List Slot) : Option MixContext :=
  match rsqrt s.cfg.numOsc, polyGain (voiceCount slots) with
  | some gainN, some gainV =>
    some { noiseModel := s.cfg.noise, kind := s.wave, volume := s.volume, gainN := gainN, gainV := gainV }
  | _, _ => none

/-- What the sample loop starts from, once the update phase has run. -/
def State.passStart (s : State) (slots : List Slot) : PassState :=
  { slots := slots, nsamp := s.nsamp, noise := { lfsr := s.lfsr, draws := s.draws } }

/-- The end of a pass: what the loop left is stored, Finished voices are evicted, BUF is loaded, CURSOR is
0 and BUSY is 0 (R222, R228, R229, R230). -/
def State.finishPass (s : State) (loop : List Sample × PassState) : State :=
  { s.loadBlock loop.1 with
    slots := evict loop.2.slots
    nsamp := loop.2.nsamp
    lfsr := loop.2.noise.lfsr
    draws := loop.2.noise.draws
    pass := none }

/-- The part of a pass that follows its update phase, which left `slots` (R225 to R230). -/
def renderSlots (s : State) (slots : List Slot) : Result :=
  match mixContext s slots with
  | some x => .next (s.finishPass (sampleLoop x BLOCK (s.passStart slots)))
  | none => .fault (.indexOutOfRange .rsqrt)

/-- RenderPass() with the latched time `t` (R222, R223). -/
def renderPass (t : Ticks) (s : State) : Result :=
  onSlots s fun s => renderSlots s (updatePhase s.cfg t s.slots)

/-- A pass in progress run to its end: what an agent that waits for BUSY = 0 finds (R71, R230). -/
def settle (s : State) : Result :=
  match s.pass with
  | some p => renderPass p.time s
  | none => .next s

/-- The sample transfer: `MemRead(BUF, CURSOR)` goes to the sink, and CURSOR advances (R92, R220). -/
def serve (s : State) : Result :=
  match s.bufRead s.cursor.toNat with
  | some x => .next (s.deliver x)
  | none => .fault (.indexOutOfRange .buf)

/-- Pull() (R220): a render pass first, where the buffer is exhausted, then one sample. -/
def pull (s : State) : Result :=
  andThen (if s.cursor = 256 then renderPass s.now s else .next s) serve

end Sys2Proof.Machine
end

