-- ==== Sys2Proof/Machine/Ports.lean ====
section
/-! DEFINITION. The ports (30_encoding.md R90 to R93), the status outputs (10_state.md R43), and one rising
clock edge with whatever the agents do at it. -/

namespace Sys2Proof.Machine

/-! ## Handshake outputs -/

/-- `cmd_ready = (BUSY = 0) and (rst = 0)` (R91). -/
def cmdReady (p : Pins) (s : State) : Bool := !s.busy && !p.rst

/-- `out_valid = (CURSOR < 256) and (BUSY = 0) and (rst = 0)` (R92). -/
def outValid (p : Pins) (s : State) : Bool := decide (s.cursor.toNat < 256) && !s.busy && !p.rst

/-- `out_data = BUF[CURSOR]` whenever `out_valid = 1`, and a free value, a new one at each edge, otherwise
(R92, I7). -/
def outData (p : Pins) (s : State) : Sample :=
  (if outValid p s then s.bufRead s.cursor.toNat else none).getD (Config.outDataIdle s.edges)

/-! ## Status and configuration outputs -/

/-- The outputs of R43. -/
structure StatusOut where
  stVolume : BitVec 16
  stWave : BitVec 3
  stVoices : BitVec 7
  stErr : BitVec 2
  stBusy : BitVec 1
  cfgRate : BitVec 16
  cfgChannels : BitVec 2
deriving DecidableEq, Repr

/-- The outputs a state drives (R43). -/
def statusOf (s : State) : StatusOut where
  stVolume := s.volume
  stWave := s.wave.code
  stVoices := BitVec.ofNat 7 (voiceCount s.slots)
  stErr := s.stErr
  stBusy := BitVec.ofBool s.busy
  cfgRate := BitVec.ofNat 16 s.cfg.sampleRate
  cfgChannels := 1

/-- The outputs at a cycle: the state's own, and the reset values while `rst = 1` (R93, R260). -/
def statusOut (p : Pins) (s : State) : StatusOut :=
  if p.rst then statusOf s.resetBlock else statusOf s

/-! ## One rising clock edge -/

/-- The command port at an edge (R91): a transfer happens where `cmd_valid` and `cmd_ready` are 1. -/
def edgeCommand (p : Pins) (s : State) : Result :=
  if p.cmdValid && cmdReady p s then exec (decodeWord p.cmdData) s else .next s

/-- The pass in progress at an edge (R230, R275): one of its PASS_CYCLES edges goes by, and at the last the
pass's effect is there and BUSY falls. No one can tell when in the pass its writes land, because commands and
transfers are held off. DESIGN CHOICE (notes/assumptions/4.md): the status outputs show them at the last
edge. -/
def edgePass (f : PassInFlight) (s : State) : Result :=
  if f.left ≤ 1 then renderPass f.time s
  else .next (s.setPass (some { f with left := f.left - 1 }))

/-- The output port at an edge, when no pass is in progress (R92, R221): a sample transfer, or the trigger
of a pass, which latches NOW and sets BUSY. -/
def edgeOutput (p : Pins) (s : State) : Result :=
  if !p.outReady then .next s
  else if s.cursor.toNat < 256 then serve s
  else if s.cursor = 256 then .next (s.setPass (some { time := s.now, left := s.cfg.passCycles }))
  else .fault .cursorOutOfRange

/-- The render engine and the output port at an edge. -/
def edgeEngine (p : Pins) (s : State) : Result :=
  match s.pass with
  | some f => edgePass f s
  | none => edgeOutput p s

/-- The end of an edge: the tick input (R30), and the edge counted. -/
def edgeTick (p : Pins) (s : State) : Result := .next (if p.tick then s.advanceNow 1 else s).countEdge

/-- One rising clock edge (R90, R244): reset wins over everything (R260); otherwise the command comes first
(R221), then the pass or the output port, then the tick, so that a command and a pass trigger read NOW from
before it (R30, R91). -/
def edge (p : Pins) (s : State) : Result :=
  if p.rst then .next s.resetBlock.countEdge
  else andThen (andThen (edgeCommand p s) (edgeEngine p)) (edgeTick p)

end Sys2Proof.Machine
end

