-- ==== Sys2Proof/Machine/Events.lean ====
section
/-! DEFINITION. The transactions of 00_scope.md rule R11, and how the agents' interleaving (10_state.md R20)
is taken up one event at a time. -/

namespace Sys2Proof.Machine

/-- One event (R11, R20). A command or a pull that meets a pass in progress waits for its end first (R71,
R230); the transactions never leave a pass in progress, so only clock edges bring that about. -/
def transact (e : Event) (s : State) : Result :=
  match e with
  | .command w => andThen (settle s) (exec (decodeWord w))
  | .pull => andThen (settle s) pull
  | .tick k => .next (s.advanceNow k)
  | .reset => .next s.resetBlock
  | .edge p => edge p s

/-- The next event of the interleaving, in a state with a legal configuration and cursor. With none left
the agents are idle, and an idle block does nothing (R247, R254). -/
def takeEvent (s : State) : Result :=
  match s.agenda with
  | [] => .next s
  | e :: rest => transact e (s.setAgenda rest)

/-- One step: a configuration outside R5 is refused (R6), and a CURSOR above 256 is a fault (R246). -/
def runAgenda (s : State) : Result :=
  if s.cfg.Legal then
    if s.cursor.toNat ≤ 256 then takeEvent s else .fault .cursorOutOfRange
  else .refused .illegalConfig

/-- The agents' next event is the acceptance of the command word `w`, at a port that is ready. -/
def offerWord (s : State) (w : Word) : State :=
  (s.setPass none).setAgenda (.command w :: s.agenda)

end Sys2Proof.Machine
end

