-- ==== Sys2Proof/Machine/Step.lean ====
section
/-! DEFINITION. One step of the machine, and how a command word is placed so that it is the next thing the
machine runs. -/

namespace Sys2Proof.Machine

/-- One step: the next event of the interleaving in `agenda`. -/
def step (s : State) : Host.Outcome State Fault Refusal := Sys2Proof.Machine.runAgenda s

/-- `s` with the command whose bits are `w` offered next on the command port. The block fetches nothing
(10_state.md R22, R72): a program is the sequence of words the control agent offers, and this stands for the
control agent offering one (notes/assumptions/6.md). -/
def State.withFetchWord (s : State) (nbits w : Nat) : State :=
  Sys2Proof.Machine.offerWord s (BitVec.ofNat 32 (w % 2 ^ nbits))

end Sys2Proof.Machine
end

