-- ==== Sys2Proof/Machine/Assembler.lean ====
section
/-! DEFINITION. The textual form of command streams: 30_encoding.md R94, with its pseudo-instructions R95
and the two directives for the other agents. A program's text becomes the events the agents offer. A real
operand is read as the decimal fraction the text writes. -/

namespace Sys2Proof.Machine

/-- One line of a program (R94, R95). `blank` is a line that holds a comment or nothing. -/
inductive AsmLine where
  | blank
  /-- A command in its own mnemonic. -/
  | cmd (i : Instr)
  /-- `.word w`. -/
  | word (w : Nat)
  /-- `@tick k`. -/
  | tick (k : Nat)
  /-- `@pull k`. -/
  | pull (k : Nat)
  /-- `SET_DETUNE_F x`. -/
  | setDetuneF (x : Rat)
  /-- `SET_VOLUME_F x`. -/
  | setVolumeF (x : Rat)
  /-- `MUTE`. -/
  | mute
  /-- `WAVE_STEP k`. -/
  | waveStep (k : Nat)
  /-- `ALL_OFF`. -/
  | allOff
deriving DecidableEq, Repr

/-- floor(x × scale + 1/2), the rounding of both R95 conversions. -/
def roundScaled (x : Rat) (scale : Nat) : Int := (x * scale + 1 / 2).floor

/-- One command as an event, reserved bits 0 (R94). An operand out of its range has no word, and an
illegal opcode is written by `.word` alone. -/
def commandEvent (i : Instr) : Option (List Event) :=
  match i with
  | .illegal7 | .illegalHigh => none
  | _ => if i.wellFormed then some [.command (encode i)] else none

/-- The events of one line (R94, R95), or none where an operand is outside the line's range. -/
def AsmLine.events : AsmLine → Option (List Event)
  | .blank => some []
  | .cmd i => commandEvent i
  | .word w => if w < 2 ^ 32 then some [.command (BitVec.ofNat 32 w)] else none
  | .tick k => some [.tick k]
  | .pull k => some (List.replicate k .pull)
  | .setDetuneF x =>
    if 0 ≤ x then commandEvent (.setDetune (min 131071 (roundScaled x 65536).toNat)) else none
  | .setVolumeF x => commandEvent (.setVolume (max (-65536) (min 65535 (roundScaled x 32768))))
  | .mute => commandEvent (.setVolume 0)
  | .waveStep k => if k ≤ 5 then some (List.replicate k (.command (encode .toggleWave))) else none
  | .allOff => some ((List.range 256).map fun k => .command (encode (.noteOff (BitVec.ofNat 8 k))))

/-! ## Reading the text -/

def isBlank (c : Char) : Bool := c == ' ' || c == '\t' || c == '\r'

/-- Leading and trailing blanks removed. -/
def trim (cs : List Char) : List Char :=
  ((cs.dropWhile isBlank).reverse.dropWhile isBlank).reverse

/-- The text up to a `;` (R94). -/
def dropComment (cs : List Char) : List Char := cs.takeWhile (· != ';')

/-- A text cut at every `sep`. -/
def splitAtChar (sep : Char) : List Char → List (List Char)
  | [] => [[]]
  | c :: cs =>
    if c == sep then [] :: splitAtChar sep cs
    else
      match splitAtChar sep cs with
      | [] => [[c]]
      | piece :: pieces => (c :: piece) :: pieces

/-- The digits of both bases, in order of value. -/
def digitChars : List Char := "0123456789abcdef".toList

/-- The value of a digit character in the given base, a letter in either case. -/
def digitValue (base : Nat) (c : Char) : Option Nat :=
  (digitChars.findIdx? (· == c.toLower)).filter (· < base)

/-- Digits in a base, most significant first. -/
def digitsValue (base : Nat) (acc : Nat) : List Char → Option Nat
  | [] => some acc
  | c :: cs => (digitValue base c).bind fun d => digitsValue base (acc * base + d) cs

/-- An unsigned number: decimal, or hexadecimal after `0x`. A `_` carries no meaning (R8). -/
def readNat (cs : List Char) : Option Nat :=
  match cs.filter (· != '_') with
  | '0' :: 'x' :: d :: ds => digitsValue 16 0 (d :: ds)
  | d :: ds => digitsValue 10 0 (d :: ds)
  | [] => none

/-- A signed number. -/
def readInt : List Char → Option Int
  | '-' :: cs => (readNat cs).map fun n => -(n : Int)
  | cs => (readNat cs).map fun n => (n : Int)

/-- Decimal digits and how many there are, at least one. A `_` carries no meaning and is not counted (R8). -/
def readDigits (cs : List Char) : Option (Nat × Nat) :=
  match cs.filter (· != '_') with
  | [] => none
  | ds => (digitsValue 10 0 ds).map fun n => (n, ds.length)

/-- An unsigned real: a whole number, or a decimal fraction as `0.8`. -/
def readFraction (cs : List Char) : Option Rat :=
  match splitAtChar '.' cs with
  | [whole] => (readNat whole).map fun n => (n : Rat)
  | [whole, part] =>
    match readDigits whole, readDigits part with
    | some n, some d => some (n.1 + (d.1 : Rat) / 10 ^ d.2)
    | _, _ => none
  | _ => none

/-- A signed decimal fraction. -/
def readRat : List Char → Option Rat
  | '-' :: cs => (readFraction cs).map fun x => -x
  | cs => readFraction cs

/-- The note names, spelt as R94 prints them: their places in this text are the indexes of R82. -/
def noteNames : List (List Char) := splitAtChar ' ' "C C# D D# E F F# G G# A A# B".toList

/-- The index of a note name (R82). -/
def noteIndex (name : List Char) : Option Nat := noteNames.findIdx? (· == name)

/-- A note operand: a name, or its index (R94). -/
def readNote (cs : List Char) : Option Nat := (noteIndex cs).or (readNat cs)

/-- A pitch as one word, `C4` or `A#3` (R95): a name up to the first digit, and the octave after it. -/
def readPitch (cs : List Char) : Option (Nat × Nat) :=
  (noteIndex (cs.takeWhile fun c => !c.isDigit)).bind fun note =>
    (readNat (cs.dropWhile fun c => !c.isDigit)).map fun oct => (note, oct)

/-- A key operand, 0 to 255 (R94). -/
def readKey (cs : List Char) : Option Key :=
  ((readNat cs).filter (· ≤ 255)).map (BitVec.ofNat 8)

/-- NOTE_ON's operands: three, or a key and a pitch word (R94, R95). -/
def readNoteOn : List (List Char) → Option AsmLine
  | [key, note, oct] =>
    match readKey key, readNote note, readNat oct with
    | some k, some n, some o => some (.cmd (.noteOn k n o))
    | _, _, _ => none
  | [key, pitch] =>
    match readKey key, readPitch pitch with
    | some k, some (n, o) => some (.cmd (.noteOn k n o))
    | _, _ => none
  | _ => none

/-- A line with no operand. -/
def readPlain (m : String) : Option AsmLine :=
  match m with
  | "NOP" => some (.cmd .nop)
  | "TOGGLE_WAVE" => some (.cmd .toggleWave)
  | "CLR_STATUS" => some (.cmd .clrStatus)
  | "MUTE" => some .mute
  | "ALL_OFF" => some .allOff
  | _ => none

/-- A line with one operand. -/
def readUnary (m : String) (arg : List Char) : Option AsmLine :=
  match m with
  | "NOTE_OFF" => (readKey arg).map fun k => .cmd (.noteOff k)
  | "SET_DETUNE" => (readNat arg).map fun d => .cmd (.setDetune d)
  | "SET_VOLUME" => (readInt arg).map fun v => .cmd (.setVolume v)
  | "SET_DETUNE_F" => (readRat arg).map .setDetuneF
  | "SET_VOLUME_F" => (readRat arg).map .setVolumeF
  | "WAVE_STEP" => (readNat arg).map .waveStep
  | ".word" => (readNat arg).map .word
  | "@tick" => (readNat arg).map .tick
  | "@pull" => (readNat arg).map .pull
  | _ => none

/-- One line of text: a mnemonic, then operands separated by commas, then a comment (R94). None where the
text is no line of this form. -/
def readLine (cs : List Char) : Option AsmLine :=
  let body := trim (dropComment cs)
  let mnemonic := String.ofList (body.takeWhile (!isBlank ·))
  let operands := trim (body.dropWhile (!isBlank ·))
  match body, operands with
  | [], _ => some .blank
  | _, [] => readPlain mnemonic
  | _, _ =>
    let args := (splitAtChar ',' operands).map trim
    match mnemonic, args with
    | "NOTE_ON", _ => readNoteOn args
    | _, [arg] => readUnary mnemonic arg
    | _, _ => none

/-- The events of a sequence of lines, in order. -/
def eventsOf : List AsmLine → Option (List Event)
  | [] => some []
  | l :: ls =>
    match l.events, eventsOf ls with
    | some es, some rest => some (es ++ rest)
    | _, _ => none

/-- A program's text, one line after another, as the events the agents offer; none where a line does not
read or an operand is out of range. -/
def assemble (text : String) : Option (List Event) :=
  ((splitAtChar '\n' text.toList).mapM readLine).bind eventsOf

end Sys2Proof.Machine
end

