-- ==== Sys2Proof/Safety.lean ====
section
/-! DEFINITION. The terms claims are stated in: when a result is a next state, which command word an event
brings, and the invariant of the block's reachable states (10_state.md R35 to R42). -/

namespace Sys2Proof.Machine

/-- The machine goes on. -/
def Runs (r : Result) : Prop := ∃ t, r = .next t

/-- `k` steps, stopping at the first fault or refusal. -/
def stepMany : Nat → State → Result
  | 0, s => .next s
  | k + 1, s => andThen (step s) (stepMany k)

/-- The command word an event makes the block accept, if it makes it accept one (R91). -/
def acceptedWord (e : Event) (s : State) : Option Word :=
  match e with
  | .command w => some w
  | .edge p => if p.cmdValid && cmdReady p s then some p.cmdData else none
  | .pull | .tick _ | .reset => none

/-- The bits of a command word that its opcode and its operand fields use; the others are reserved (R82 to
R88). -/
def usedBits (op : Nat) : Word :=
  match op with
  | 1 => 0xF000FFFF
  | 2 => 0xF00000FF
  | 3 | 5 => 0xF001FFFF
  | _ => 0xF0000000

/-- Whether an event is a reset, as a transaction or as an edge with `rst = 1` (R260). -/
def Event.isReset : Event → Bool
  | .reset => true
  | .edge p => p.rst
  | .command _ | .pull | .tick _ => false

/-- What every voice keeps, given the state it sits in. -/
structure Voice.Ok (s : State) (v : Voice) : Prop where
  /-- The base tuning word is an entry of the tuning ROM (R151, R172). -/
  base : ∃ oct note, oct ≤ 8 ∧ note ≤ 11 ∧ noteFtw s.cfg.sampleRate oct note = some v.ftwBase
  /-- There are NUM_OSC oscillators, tuned by R153 (R37) and in phase with NSAMP (R38, R155). -/
  bank : v.oscs = tuneBank s.cfg.numOsc s.nsamp v.ftwBase s.detune
  /-- AMP is an amplitude (R39). -/
  amp : v.amp.toNat ≤ ONE
  /-- R0 is an amplitude (R39). -/
  r0 : v.r0.toNat ≤ ONE
  /-- No voice is Finished outside a render pass (R42). -/
  live : v.stage ≠ .finished

/-- The range the soft clip leaves (R205). -/
def Clipped (x : Sample) : Prop := -CLIP_LEVEL ≤ x.toInt ∧ x.toInt ≤ CLIP_LEVEL

/-- The invariant of the block: what 10_state.md says of every reachable state. -/
structure State.Inv (s : State) : Prop where
  /-- The configuration is one of R5. -/
  legal : s.cfg.Legal
  /-- There are MAX_VOICES slots (R34). -/
  slots_length : s.slots.length = s.cfg.maxVoices
  /-- Every voice is as it should be. -/
  voices_ok : ∀ v ∈ voicesOf s.slots, v.Ok s
  /-- No two voices have the same key (R36). -/
  keys_distinct : ((voicesOf s.slots).map Voice.key).Nodup
  /-- VOLUME is legal (R24). -/
  volume_le : s.volume.toNat ≤ ONE
  /-- DETUNE is legal (R25). -/
  detune_le : s.detune.toNat ≤ 65536
  /-- The LFSR is never 0 (R29). -/
  lfsr_ne : s.lfsr ≠ 0
  /-- CURSOR is legal (R31). -/
  cursor_le : s.cursor.toNat ≤ 256
  /-- BUF is in its form: no entry written since reset, or all 256 (R32, notes/assumptions/3.md). -/
  buf_wf : Memory.wf s.buf = true
  /-- While CURSOR is below 256, a pass has written every entry of BUF since reset (R32). -/
  buf_ready : s.cursor.toNat < 256 → s.buf.length = BLOCK
  /-- Every sample a pass has buffered is soft-clipped (R205). -/
  buf_clipped : ∀ x ∈ s.buf, Clipped x
  /-- Every sample the sink has received is soft-clipped (R205, R220). -/
  sink_clipped : ∀ x ∈ s.sink, Clipped x
  /-- A pass is in progress only with the buffer exhausted, and has at least one edge to go (R221, R275). -/
  pass_ok : ∀ p, s.pass = some p → s.cursor = 256 ∧ 1 ≤ p.left

/-- No stage began after now (R39), nor did the latch of a pass in progress. It holds while NOW does not
wrap (92_eei_decisions.md D31). -/
structure State.StartsInPast (s : State) : Prop where
  voices : ∀ v ∈ voicesOf s.slots, v.start.toNat ≤ s.now.toNat
  pass : ∀ p, s.pass = some p → p.time.toNat ≤ s.now.toNat

end Sys2Proof.Machine
end

