-- ==== Sys2Proof/Certificates/Slice0/Obligations.lean ====
section
/-! DEFINITION. The statements about the block. Each docstring names the rules of spec/ it formalises. A
statement about NOISE_MODEL = DRAW holds for every value of the free draws, one about BUF before the first pass
for every value of its free entries, one about an output port that offers no sample for every free value of
`out_data`, and one about the edges of a pass for every PASS_CYCLES. -/

open Sys2Proof Sys2Proof.Machine

/-! ## Encoding (30_encoding.md) -/

/-- R80 to R88: decoding the canonical word of a well-formed instruction gives it back, as a word and as the
bytes of a byte-wide wrapper (the model's reading of R62: notes/assumptions/10.md). -/
def Obligations.DecodeInvertsEncode : Prop :=
  ∀ i : Instr, i.wellFormed = true →
    decodeWord (encode i) = i ∧
    ∀ rest : List Byte, decode (bytesOfWord (encode i) ++ rest) = .ok (i, rest)

/-- R87: two words that differ only in reserved bits decode alike and have the same effect. -/
def Obligations.ReservedBitsAreIgnored : Prop :=
  ∀ w w' : Word, w &&& usedBits (bits w 31 28) = w' &&& usedBits (bits w 31 28) →
    decodeWord w = decodeWord w' ∧ ∀ s : State, transact (.command w) s = transact (.command w') s

/-- R89: every 32-bit word belongs to exactly one row of the opcode table, and decodes to a well-formed
instruction of that row. -/
def Obligations.EveryWordBelongsToOneRow : Prop :=
  ∀ w : Word, ∃ k, k < 9 ∧
    (∃ r, opcodeRows[k]? = some r ∧ r.accepts w = true) ∧
    (∀ j r, opcodeRows[j]? = some r → r.accepts w = true → j = k) ∧
    (decodeWord w).rowIndex = k ∧ (decodeWord w).wellFormed = true

/-- R82 to R88: words written out from the formats decode to what they stand for. -/
def Obligations.WrittenWordsDecode : Prop :=
  decodeWord 0b0000_0000_0000_0000_0000_0000_0000_0000 = .nop ∧
  decodeWord 0b0001_1010_0101_1100_1000_1011_1111_1110 = .noteOn 0xFE 11 8 ∧
  decodeWord 0b0010_1111_0000_1111_0000_1111_1000_0001 = .noteOff 0x81 ∧
  decodeWord 0b0011_0101_0101_0101_1000_0000_0000_0010 = .setDetune 98306 ∧
  decodeWord 0b0100_0000_0000_0000_0000_0000_0000_0001 = .toggleWave ∧
  decodeWord 0b0101_1111_1110_0001_1111_1111_1111_1110 = .setVolume (-2) ∧
  decodeWord 0b0101_0000_0000_0000_1001_1100_0100_0000 = .setVolume 40000 ∧
  decodeWord 0b0110_0000_0000_0000_0000_0000_0000_0000 = .clrStatus ∧
  decodeWord 0b0111_0000_0000_0000_0000_0000_0000_0000 = .illegal7 ∧
  decodeWord 0b1000_1010_1011_1100_1101_1110_1111_0000 = .illegalHigh ∧
  decodeWord 0b1111_1111_1111_1111_1111_1111_1111_1111 = .illegalHigh

/-! ## Steps (00_scope.md R11, 10_state.md R20) -/

/-- R11, R170: a step whose next event is an accepted command runs the decoded command, and the host's
placement of a word makes it that event (the model's own: notes/assumptions/6.md). -/
def Obligations.StepRunsTheDecodedCommand : Prop :=
  ∀ s : State, s.cfg.Legal → s.cursor.toNat ≤ 256 →
    (∀ w rest, s.pass = none → s.agenda = .command w :: rest →
      step s = exec (decodeWord w) { s with agenda := rest }) ∧
    (∀ nbits w, step (s.withFetchWord nbits w) =
      exec (decodeWord (BitVec.ofNat 32 (w % 2 ^ nbits))) { s with pass := none })

/-- R11, R20, R30, R220, R260: what a step does for each of the other agents, and with none acting (the model's
own: notes/assumptions/9.md). -/
def Obligations.StepTakesTheNextTransaction : Prop :=
  ∀ s : State, s.cfg.Legal → s.cursor.toNat ≤ 256 →
    (s.agenda = [] → step s = .next s) ∧
    (∀ rest, s.agenda = .pull :: rest → s.pass = none → step s = pull { s with agenda := rest }) ∧
    (∀ k rest, s.agenda = .tick k :: rest →
      step s = .next { s with agenda := rest, now := s.now + BitVec.ofNat 64 k }) ∧
    (∀ rest, s.agenda = .reset :: rest → step s = .next { s.resetBlock with agenda := rest }) ∧
    (∀ p rest, s.agenda = .edge p :: rest → step s = edge p { s with agenda := rest })

/-- R66, R71, R92, R230: a command that meets a pass in progress is applied after it, to what the pass left; a
pull that meets one serves entry 0 of the block the pass wrote, with no second pass; and the pass leaves BUSY =
0. That a transaction waits so is the model's inference (notes/assumptions/8.md), and the record of what was
served is the model's own (notes/assumptions/5.md). -/
def Obligations.BusyCommandWaitsForThePass : Prop :=
  ∀ (s u : State) (f : PassInFlight), s.pass = some f → renderPass f.time s = .next u →
    u.busy = false ∧ (∀ w, transact (.command w) s = exec (decodeWord w) u) ∧
    ∃ x, u.bufRead 0 = some x ∧ transact .pull s = .next { u with cursor := 1, sink := x :: s.sink }

/-- R30: ticks add up modulo 2^64, and k ticks are k single ones merged. -/
def Obligations.TicksAddUp : Prop :=
  ∀ (s : State) (a b : Nat), ∃ t,
    transact (.tick a) s = .next t ∧ transact (.tick b) t = transact (.tick (a + b)) s ∧
    t = { s with now := t.now } ∧ t.now.toNat = (s.now.toNat + a) % 2 ^ 64

/-- R6: a step is refused exactly when the configuration is outside R5, and NUM_OSC = 0 is. -/
def Obligations.IllegalConfigurationIsRefused : Prop :=
  ∀ s : State,
    (∀ r, step s = .refused r ↔ (¬ s.cfg.Legal ∧ r = .illegalConfig)) ∧
    (s.cfg.numOsc = 0 → step s = .refused .illegalConfig)

/-- R246: a CURSOR above 256 is a fault, whatever the agents do (the model's choice of when:
notes/assumptions/12.md), and so is a visit to a slot file whose slots are not 0 to MAX_VOICES - 1, by each
command that visits it and by a pass (the model's choice of which: notes/assumptions/21.md). -/
def Obligations.CursorAboveEndFaults : Prop :=
  ∀ s : State,
    (s.cfg.Legal → 256 < s.cursor.toNat → step s = .fault .cursorOutOfRange) ∧
    (s.slots.length ≠ s.cfg.maxVoices →
      (∀ key note oct, note ≤ 11 → oct ≤ 8 →
        exec (.noteOn key note oct) s = .fault (.indexOutOfRange .slotFile)) ∧
      (∀ key, exec (.noteOff key) s = .fault (.indexOutOfRange .slotFile)) ∧
      (∀ d, exec (.setDetune d) s = .fault (.indexOutOfRange .slotFile)) ∧
      ∀ t, renderPass t s = .fault (.indexOutOfRange .slotFile))

/-! ## Reset (70_reset_and_hazards.md) -/

/-- R44: after reset every state element holds its listed value. BUF and the fields of a free slot have none
listed. -/
def Obligations.ResetGivesResetValues : Prop :=
  (∀ s : State, ∃ t, transact .reset s = .next t ∧
    t.wave = .sine ∧ t.volume = BitVec.ofNat 16 s.cfg.resetVolume ∧
    t.detune = BitVec.ofNat 17 s.cfg.resetDetune ∧ t.errIllegal = false ∧ t.errFull = false ∧
    t.busy = false ∧ t.nsamp = 0 ∧ t.lfsr = BitVec.ofNat 32 s.cfg.lfsrSeed ∧ t.now = 0 ∧ t.cursor = 256 ∧
    t.slots.length = s.cfg.maxVoices ∧ (∀ slot ∈ t.slots, slot = none)) ∧
  (Config.default.resetVolume = 32768 ∧ Config.default.resetDetune = 0 ∧
    Config.default.lfsrSeed = 0xACE1ACE1)

/-- R244, R260, R93: at an edge with `rst = 1` nothing but the reset happens, whatever the other pins, and both
ports are closed while the status outputs show the reset values. What the output port then carries is a free
value, as R92 and I7 leave it unspecified; that it is numbered by a count of clock edges, which every edge adds
1 to, is the model's own (notes/assumptions/5.md and 16.md). -/
def Obligations.ResetWinsAtAnEdge : Prop :=
  ∀ (s : State) (p : Pins), p.rst = true →
    edge p s = transact .reset { s with edges := s.edges + 1 } ∧ cmdReady p s = false ∧ outValid p s = false ∧
    outData p s = Config.outDataIdle s.edges ∧
    ∃ t, transact .reset s = .next t ∧ statusOut p s = statusOf t

/-- R262: the first pull after reset triggers a pass at T = NOW, the ticks since reset, which gives 256 zero
samples and advances NSAMP from 0 to 256. -/
def Obligations.FirstPassAfterResetIsSilent : Prop :=
  ∀ (c : Config) (k : Nat), c.Legal →
    ∃ s t, transact (.tick k) (State.resetWith c) = .next s ∧ s.now = BitVec.ofNat 64 k ∧
      s.nsamp = 0 ∧ s.cursor = 256 ∧
      transact .pull s = andThen (renderPass s.now s) serve ∧ transact .pull s = .next t ∧
      t.buf.length = 256 ∧ (∀ x ∈ t.buf, x = 0) ∧ t.nsamp = 256 ∧ t.cursor = 1

/-! ## Commands (43_commands.md) -/

/-- R171: NOP, whatever its reserved bits, leaves every state element unchanged. -/
def Obligations.NopChangesNothing : Prop :=
  ∀ (s : State) (w : Word), bits w 31 28 = 0 → exec (decodeWord w) s = .next s

/-- R172, R180, R82: the fields of NOTE_ON, and its effect in each of its cases: an unresolvable pitch class,
an active key, a full slot file, and a voice started in the lowest free slot, with everything else as it was.
-/
def Obligations.NoteOnStartsAVoice : Prop :=
  ∀ (s : State) (key : Key) (note oct : Nat), s.cfg.Legal →
    (∀ w : Word, bits w 31 28 = 1 →
      decodeWord w = .noteOn (BitVec.ofNat 8 (bits w 7 0)) (bits w 11 8) (bits w 15 12)) ∧
    (11 < note ∨ 8 < oct → exec (.noteOn key note oct) s = .next s) ∧
    (s.slots.length = s.cfg.maxVoices →
      ∀ v, some v ∈ s.slots → v.key = key → exec (.noteOn key note oct) s = .next s) ∧
    (note ≤ 11 → oct ≤ 8 → s.slots.length = s.cfg.maxVoices → (∀ v, some v ∈ s.slots → v.key ≠ key) →
      (none ∉ s.slots → exec (.noteOn key note oct) s = .next { s with errFull := true }) ∧
      ∀ i, s.slots[i]? = some none → (∀ j < i, s.slots[j]? ≠ some none) →
        ∃ v, exec (.noteOn key note oct) s = .next { s with slots := s.slots.set i (some v) } ∧
          noteFtw s.cfg.sampleRate oct note = some v.ftwBase ∧ v.key = key ∧
          v.oscs.length = s.cfg.numOsc ∧
          (∀ k < s.cfg.numOsc, v.oscs[k]? = some
            { ftw := detunedFtw s.cfg.numOsc v.ftwBase s.detune k,
              phase := s.nsamp * detunedFtw s.cfg.numOsc v.ftwBase s.detune k }) ∧
          v.stage = .attack ∧ v.start = s.now ∧ v.amp = 0 ∧ v.r0 = 0)

/-- R173, R103, R83: the field of NOTE_OFF, and its effect. It does nothing for an inactive key or a releasing
voice, and otherwise puts the key's voice in Release from its stored amplitude, with everything else as it was.
-/
def Obligations.NoteOffReleasesTheVoice : Prop :=
  ∀ (s : State) (key : Key), s.slots.length = s.cfg.maxVoices →
    (∀ w : Word, bits w 31 28 = 2 → decodeWord w = .noteOff (BitVec.ofNat 8 (bits w 7 0))) ∧
    ((∀ v, some v ∈ s.slots → v.key ≠ key) → exec (.noteOff key) s = .next s) ∧
    ∀ (i : Nat) (v : Voice), s.slots[i]? = some (some v) → v.key = key →
      (∀ j u, s.slots[j]? = some (some u) → u.key = key → j = i) →
      ((v.stage = .release ∨ v.stage = .finished) → exec (.noteOff key) s = .next s) ∧
      ((v.stage = .attack ∨ v.stage = .decay ∨ v.stage = .sustain) →
        exec (.noteOff key) s = .next { s with
          slots := s.slots.set i (some { v with r0 := v.amp, stage := .release, start := s.now }) })

/-- R103: a second NOTE_OFF of the same key, at any later time, changes nothing. -/
def Obligations.ReleaseIsIdempotent : Prop :=
  ∀ (s t : State) (key : Key) (k : Nat), exec (.noteOff key) s = .next t →
    exec (.noteOff key) (t.advanceNow k) = .next (t.advanceNow k)

/-- R174, R84: the field of SET_DETUNE, and its effect. It clamps DETUNE and retunes every live voice in place,
with its phases reloaded, and changes nothing else. -/
def Obligations.SetDetuneRetunesEveryVoice : Prop :=
  (∀ w : Word, bits w 31 28 = 3 → decodeWord w = .setDetune (bits w 16 0)) ∧
  ∀ (s : State) (d : Nat), s.slots.length = s.cfg.maxVoices → ∃ t, exec (.setDetune d) s = .next t ∧
    t = { s with detune := t.detune, slots := t.slots } ∧
    t.detune.toNat = min d 65536 ∧ t.slots.length = s.slots.length ∧
    (∀ i : Nat, s.slots[i]? = some none → t.slots[i]? = some none) ∧
    ∀ (i : Nat) (v : Voice), s.slots[i]? = some (some v) → ∃ bank : List Osc,
      t.slots[i]? = some (some { v with oscs := bank }) ∧ bank.length = s.cfg.numOsc ∧
      ∀ k < s.cfg.numOsc, bank[k]? = some
        { ftw := detunedFtw s.cfg.numOsc v.ftwBase t.detune k,
          phase := s.nsamp * detunedFtw s.cfg.numOsc v.ftwBase t.detune k }

/-- R175, R138: TOGGLE_WAVE, whatever its reserved bits, steps WAVE to its cyclic successor and changes nothing
else, and six of them restore the state. -/
def Obligations.ToggleWaveCycles : Prop :=
  ∀ s : State,
    (∀ w : Word, bits w 31 28 = 4 → decodeWord w = .toggleWave) ∧
    (∃ t, exec .toggleWave s = .next t ∧ t = { s with wave := t.wave } ∧
      t.wave.code = if s.wave.code = 5 then 0 else s.wave.code + 1) ∧
    andThen (andThen (andThen (andThen (andThen (exec .toggleWave s) (exec .toggleWave))
      (exec .toggleWave)) (exec .toggleWave)) (exec .toggleWave)) (exec .toggleWave) = .next s

/-- R176, R85: the signed field of SET_VOLUME, and its effect. It stores its operand clamped to 0..32768 and
changes nothing else. -/
def Obligations.SetVolumeClamps : Prop :=
  (∀ w : Word, bits w 31 28 = 5 → decodeWord w = .setVolume
    (if bits w 16 16 = 1 then (bits w 16 0 : Int) - 131072 else bits w 16 0)) ∧
  ∀ (s : State) (v : Int), ∃ t, exec (.setVolume v) s = .next t ∧ t = { s with volume := t.volume } ∧
    (v < 0 → t.volume.toNat = 0) ∧ (0 ≤ v → v ≤ 32768 → (t.volume.toNat : Int) = v) ∧
    (32768 < v → t.volume.toNat = 32768)

/-- R177: CLR_STATUS, whatever its reserved bits, clears both flags and changes nothing else. -/
def Obligations.ClearStatusClearsBothFlags : Prop :=
  ∀ s : State, (∀ w : Word, bits w 31 28 = 6 → decodeWord w = .clrStatus) ∧
    ∃ t, exec .clrStatus s = .next t ∧
    t = { s with errIllegal := false, errFull := false } ∧ t.stErr = 0

/-- R178: a word with an opcode from 0x7 to 0xF, and with it both illegal instructions, sets ERR_ILLEGAL and
changes nothing else. -/
def Obligations.IllegalOpcodeSetsItsFlag : Prop :=
  ∀ s : State,
    (∀ w : Word, 7 ≤ bits w 31 28 → exec (decodeWord w) s = .next { s with errIllegal := true }) ∧
    exec .illegal7 s = .next { s with errIllegal := true } ∧
    exec .illegalHigh s = .next { s with errIllegal := true }

/-- R170, R240: in a legal configuration, with the slots 0 to MAX_VOICES - 1 of R34 and R61, every command
completes. StepKeepsTheInvariant says that the number of slots stays. -/
def Obligations.CommandsNeverFail : Prop :=
  ∀ (i : Instr) (s : State), s.cfg.Legal → s.slots.length = s.cfg.maxVoices → ∃ t, exec i s = .next t

/-- R170, R21: the frame of the commands, those that write slots and those that do not. No command writes BUF,
CURSOR, NSAMP, NOW, the LFSR, BUSY, a parameter or what the environment holds; every byte of BUF reads as
before; and each register has the one kind of command that writes it. -/
def Obligations.CommandsKeepTheirFrame : Prop :=
  ∀ (i : Instr) (s t : State), exec i s = .next t →
    t = { s with
      wave := t.wave, volume := t.volume, detune := t.detune, errIllegal := t.errIllegal,
      errFull := t.errFull, slots := t.slots } ∧
    (∀ k, t.bufRead k = s.bufRead k) ∧
    (i ≠ .toggleWave → t.wave = s.wave) ∧
    ((∀ v, i ≠ .setVolume v) → t.volume = s.volume) ∧
    ((∀ d, i ≠ .setDetune d) → t.detune = s.detune) ∧
    (i ≠ .clrStatus → i ≠ .illegal7 → i ≠ .illegalHigh → t.errIllegal = s.errIllegal) ∧
    (i ≠ .clrStatus → (∀ k n o, i ≠ .noteOn k n o) → t.errFull = s.errFull) ∧
    ((∀ k n o, i ≠ .noteOn k n o) → (∀ k, i ≠ .noteOff k) → (∀ d, i ≠ .setDetune d) → t.slots = s.slots)

/-- R67: of two commands that set the same register the later one's value stays, as if the first had not been.
-/
def Obligations.LaterSettingWins : Prop :=
  ∀ (s t : State),
    (∀ a b : Int, exec (.setVolume a) s = .next t → exec (.setVolume b) t = exec (.setVolume b) s) ∧
    (∀ a b : Nat, exec (.setDetune a) s = .next t → exec (.setDetune b) t = exec (.setDetune b) s)

/-- R23 to R26: outside a reset, WAVE, VOLUME and DETUNE change only at an accepted TOGGLE_WAVE, SET_VOLUME and
SET_DETUNE; a flag is raised only by its own command and lowered only by CLR_STATUS. -/
def Obligations.RegistersHaveOneWriter : Prop :=
  ∀ (e : Event) (s t : State), transact e s = .next t → e.isReset = false →
    (t.wave ≠ s.wave → ∃ w, acceptedWord e s = some w ∧ decodeWord w = .toggleWave) ∧
    (t.volume ≠ s.volume → ∃ w v, acceptedWord e s = some w ∧ decodeWord w = .setVolume v) ∧
    (t.detune ≠ s.detune → ∃ w d, acceptedWord e s = some w ∧ decodeWord w = .setDetune d) ∧
    (t.errIllegal = true → s.errIllegal = false →
      ∃ w, acceptedWord e s = some w ∧ 7 ≤ bits w 31 28) ∧
    (t.errFull = true → s.errFull = false →
      ∃ w k n o, acceptedWord e s = some w ∧ decodeWord w = .noteOn k n o ∧ n ≤ 11 ∧ o ≤ 8) ∧
    ((t.errIllegal = false ∧ s.errIllegal = true) ∨ (t.errFull = false ∧ s.errFull = true) →
      ∃ w, acceptedWord e s = some w ∧ decodeWord w = .clrStatus)

/-! ## Envelope (40_envelope.md) -/

/-- R104 to R109: update in each stage, from the elapsed time modulo 2^64: the stage, its start and the
amplitude it leaves, and nothing else of the voice. -/
def Obligations.UpdateFollowsTheStage : Prop :=
  ∀ (c : Config) (t : Ticks) (v : Voice), c.Legal →
    let e := (t - v.start).toNat
    let u := v.update c t
    u = { v with stage := u.stage, start := u.start, amp := u.amp } ∧
    (v.stage = .attack →
      (c.attackT ≤ e → u.stage = .decay ∧ u.start = t ∧ u.amp.toNat = 32768) ∧
      (e < c.attackT → u.stage = .attack ∧ u.start = v.start ∧
        u.amp.toNat = min 32768 (e * 32768 / c.attackT))) ∧
    (v.stage = .decay →
      (c.decayT ≤ e → u.stage = .sustain ∧ u.start = t ∧ u.amp.toNat = c.sustainLvl) ∧
      (e < c.decayT → u.stage = .decay ∧ u.start = v.start ∧
        (u.amp.toNat : Int) =
          max (c.sustainLvl : Int) (32768 - ((e * (32768 - c.sustainLvl) / c.decayT : Nat) : Int)))) ∧
    (v.stage = .sustain → u.stage = .sustain ∧ u.start = v.start ∧ u.amp.toNat = c.sustainLvl) ∧
    (v.stage = .release →
      (c.releaseT ≤ e → u.stage = .finished ∧ u.start = t ∧ u.amp = 0) ∧
      (e < c.releaseT → u.stage = .release ∧ u.start = v.start ∧
        u.amp.toNat = v.r0.toNat * (c.releaseT - e) / c.releaseT)) ∧
    (v.stage = .finished → u.stage = .finished ∧ u.start = v.start ∧ u.amp = 0)

/-- R110: a zero duration is an instantaneous transition at the first update after the stage is entered. -/
def Obligations.ZeroLengthStagesAreInstant : Prop :=
  ∀ (c : Config) (t t' : Ticks) (v : Voice), c.Legal →
    (c.attackT = 0 → v.stage = .attack →
      (v.update c t).stage = .decay ∧ (v.update c t).amp.toNat = 32768) ∧
    (c.decayT = 0 → v.stage = .decay →
      (v.update c t).stage = .sustain ∧ (v.update c t).amp.toNat = c.sustainLvl) ∧
    (c.releaseT = 0 → v.stage = .release →
      (v.update c t).stage = .finished ∧ (v.update c t).amp = 0) ∧
    (c.attackT = 0 → c.decayT = 0 → v.stage = .attack →
      ((v.update c t).update c t').stage = .sustain ∧
      ((v.update c t).update c t').amp.toNat = c.sustainLvl)

/-- R112: the Attack ramp rises and the Decay ramp falls with the elapsed time, strictly where the elapsed
times are a quantum apart; Decay with SUS = ONE is constant; and at the duration the stage changes once. -/
def Obligations.EnvelopeRampsAreMonotone : Prop :=
  ∀ (c : Config) (v : Voice) (t1 t2 : Ticks), c.Legal →
    let e1 := (t1 - v.start).toNat
    let e2 := (t2 - v.start).toNat
    let a1 := (v.update c t1).amp.toNat
    let a2 := (v.update c t2).amp.toNat
    (v.stage = .attack → e1 < e2 → e2 < c.attackT →
      a1 ≤ a2 ∧ (c.attackT ≤ (e2 - e1) * 32768 → a1 < a2)) ∧
    (v.stage = .decay → c.sustainLvl < 32768 → e1 < e2 → e2 < c.decayT →
      a2 ≤ a1 ∧ (c.decayT ≤ (e2 - e1) * (32768 - c.sustainLvl) → a2 < a1)) ∧
    (v.stage = .decay → c.sustainLvl = 32768 → e1 < e2 → e2 < c.decayT → a1 = 32768 ∧ a2 = 32768) ∧
    (v.stage = .attack → 0 < c.attackT → c.attackT ≤ e1 → (v.update c t1).stage = .decay) ∧
    (v.stage = .decay → 0 < c.decayT → c.decayT ≤ e1 → (v.update c t1).stage = .sustain)

/-! ## Waveform generator (41_waveform.md) -/

/-- R139: every output of the generator is a signed Q1.15 value. 32767 stands for +1.0 in Square, Pulse,
Triangle and Sine; -32768 is reached by Saw, Square, Pulse, Triangle and WhiteNoise, and Sine's minimum is
-32767. -/
def Obligations.WaveOutputsAreSamples : Prop :=
  (∀ m kind ph n, -32768 ≤ (waveGen m kind ph n).1 ∧ (waveGen m kind ph n).1 ≤ 32767) ∧
  (∀ m ph n, -32767 ≤ (waveGen m .sine ph n).1) ∧
  (∀ m n, (∃ ph, (waveGen m .sine ph n).1 = -32767) ∧
    ∀ kind ∈ [WaveKind.square, .pulse, .triangle, .sine], ∃ ph, (waveGen m kind ph n).1 = 32767) ∧
  (∀ m n, ∀ kind ∈ [WaveKind.saw, .square, .pulse, .triangle],
    ∃ ph, (waveGen m kind ph n).1 = -32768) ∧
  (∀ ph, ∃ n, (waveGen .lfsr .whiteNoise ph n).1 = -32768)

/-- R133 to R136: Saw, Square, Pulse and Triangle from the top sixteen phase bits, Square and Pulse also from
the top one and two, with the noise source untouched. -/
def Obligations.ShapedWavesFollowThePhase : Prop :=
  ∀ (m : NoiseModel) (ph : Word) (n : Noise),
    let h := ph.toNat / 65536
    waveGen m .saw ph n = ((h : Int) - 32768, n) ∧
    waveGen m .square ph n = (if h < 32768 then 32767 else -32768, n) ∧
    waveGen m .square ph n = (if ph.msb then -32768 else 32767, n) ∧
    waveGen m .pulse ph n = (if h < 16384 then 32767 else -32768, n) ∧
    waveGen m .pulse ph n =
      (if ph.getLsbD 31 = false ∧ ph.getLsbD 30 = false then 32767 else -32768, n) ∧
    (h < 16384 → waveGen m .triangle ph n = (2 * (h : Int), n)) ∧
    (h = 16384 → waveGen m .triangle ph n = (32767, n)) ∧
    (16384 < h → h < 49152 → waveGen m .triangle ph n = (65536 - 2 * (h : Int), n)) ∧
    (49152 ≤ h → waveGen m .triangle ph n = (2 * (h : Int) - 131072, n))

/-- R131, R132: the sine in each quarter wave, from the entry of SINE_Q that the top ten phase bits name, with
the noise source untouched; the symmetries that follow; and the ROM's first and last entries with some between,
each pair of mirrored entries being the two legs of a right triangle to within the rounding of R132. -/
def Obligations.SineHasItsSymmetries : Prop :=
  (∀ ph ph' : Word,
    let k := bits ph 31 22
    (∀ m n, waveGen m .sine ph n = (waveSine ph, n)) ∧
    (∀ j : Fin 257,
      (k < 256 → j.val = k → waveSine ph = sineQ j) ∧
      (256 ≤ k → k < 512 → j.val + k = 512 → waveSine ph = sineQ j) ∧
      (512 ≤ k → k < 768 → j.val + 512 = k → waveSine ph = -sineQ j) ∧
      (768 ≤ k → j.val + k = 1024 → waveSine ph = -sineQ j)) ∧
    waveSine (ph + 0x80000000) = -waveSine ph ∧
    (k = bits ph' 31 22 → waveSine ph = waveSine ph') ∧
    (k + bits ph' 31 22 = 512 → waveSine ph = waveSine ph')) ∧
  (sineQ 0 = 0 ∧ sineQ 1 = 201 ∧ sineQ 64 = 12540 ∧ sineQ 128 = 23170 ∧ sineQ 255 = 32767 ∧
    sineQ 256 = 32767) ∧
  ∀ j : Fin 257, |sineQ j * sineQ j + sineQ j.rev * sineQ j.rev - 32768 * 32768| ≤ 65536

/-- R29, R137: the LFSR's step, which is one-to-one and never reaches 0 from a nonzero register; and a
WhiteNoise evaluation, which ignores the phase. With the LFSR it steps the register once and gives the low 16
bits of what it stepped to, as a signed number; with DRAW it leaves the register and gives the next free value,
numbered by the model's own count (notes/assumptions/5.md and 7.md). -/
def Obligations.LfsrStaysNonzero : Prop :=
  (∀ r : Word, lfsrStep r = if r.getLsbD 0 then (r >>> 1) ^^^ 0x80200003 else r >>> 1) ∧
  Function.Injective lfsrStep ∧ (∀ r : Word, r ≠ 0 → lfsrStep r ≠ 0) ∧
  (∀ ph n, waveGen .lfsr .whiteNoise ph n =
    (((lfsrStep n.lfsr).setWidth 16).toInt, { n with lfsr := lfsrStep n.lfsr })) ∧
  ∀ ph n, waveGen .draw .whiteNoise ph n =
    ((Config.noiseDraw n.draws).toInt, { n with draws := n.draws + 1 })

/-! ## NCO bank (42_nco.md) -/

/-- R153: for a base word of the tuning ROM's range, a detuned word is the exact spread rounded down, does not
wrap, is positive, and lies between B/2 - 1 and 3B/2. -/
def Obligations.DetunedWordsSpreadAroundTheBase : Prop :=
  ∀ (n i : Nat) (b : Word) (d : Detune), 2 ≤ n → n ≤ 8 → i < n → 1463116 ≤ b.toNat → b.toNat < 2 ^ 31 →
    d.toNat ≤ 65536 →
    let f := (detunedFtw n b d i).toNat
    (f : Int) = b.toNat + (b.toNat * d.toNat * (2 * (i : Int) - ((n : Int) - 1))) /
      (2 * ((n : Int) - 1) * 65536) ∧
    b.toNat < 2 * f + 2 ∧ 2 * f ≤ 3 * b.toNat ∧ 0 < f

/-- R154: one oscillator, or detune 0, gives the base word. -/
def Obligations.FlatBankGivesTheBase : Prop :=
  (∀ (b : Word) (d : Detune), detunedFtw 1 b d 0 = b) ∧
  ∀ (n i : Nat) (b : Word), 1 ≤ n → i < n → detunedFtw n b 0 i = b

/-- R151, R153: the tuning ROM has an entry for exactly the resolvable pitch classes at either legal rate, and
every entry is in the range R153 rests on. -/
def Obligations.TuningRomIsInRange : Prop :=
  ∀ rate ∈ [44100, 48000], ∀ oct < 16, ∀ note < 16,
    if oct ≤ 8 ∧ note ≤ 11 then
      ∃ b ∈ noteFtw rate oct note, 1463116 ≤ b.toNat ∧ b.toNat < 2 ^ 31
    else noteFtw rate oct note = none

/-! ## Mixer (44_mixer.md) -/

/-- R206: RSQRT[k] is 32768/sqrt(k) rounded half up, for k = 1..64, said in integers by squaring. -/
def Obligations.RsqrtRomIsRounded : Prop :=
  ∀ k ∈ List.range' 1 64, ∃ g ∈ rsqrt k,
    (2 * g - 1) * (2 * g - 1) * k ≤ 65536 * 65536 ∧ 65536 * 65536 < (2 * g + 1) * (2 * g + 1) * k

/-- R207: with N ≤ 8, V ≤ 64 and gains of at most 1.0 the mixing datapath keeps its widths. -/
def Obligations.MixerKeepsItsWidths : Prop :=
  ∀ (x : MixContext) (slots : List Slot) (n : Noise), x.gainN ≤ 32768 → x.gainV ≤ 32768 →
    x.volume.toNat ≤ 32768 → slots.length ≤ 64 →
    (∀ v, some v ∈ slots → v.oscs.length ≤ 8 ∧ v.amp.toNat ≤ 32768) →
    (∀ v, some v ∈ slots →
      let sum := (oscSum x.noiseModel x.kind v.oscs n).1
      let u := normalise x.gainN sum
      let a := applyAmp v.amp u
      |sum| ≤ 2 ^ 18 ∧ |u| ≤ 2 ^ 18 ∧ |a| ≤ 2 ^ 18 ∧ |applyVolume x.volume a| ≤ 2 ^ 18 ∧
      |sum * x.gainN| ≤ 2 ^ 39 ∧ |u * v.amp.toNat| ≤ 2 ^ 39 ∧ |a * x.volume.toNat| ≤ 2 ^ 39) ∧
    |(mixSum x slots n).1| ≤ 2 ^ 24 ∧ |(mixSum x slots n).1 * x.gainV| ≤ 2 ^ 39 ∧
    |polyScale x.gainV (mixSum x slots n).1| ≤ 2 ^ 24

/-- R200 to R205: an output sample by the rules' own formulas. A voice's level is its oscillator sum S with the
context's oscillator gain, AMP and VOLUME applied in that order, each rounded down (R202, R203;
SamplesReadTheirOwnPhase says that a pass takes RSQRT[N] as that gain). But for WhiteNoise, whose evaluations
MixIgnoresItsOrder orders, S is the sum of the voice's waveform values and M the sum of the levels of the
occupied slots that are not Finished (R200, R201, R204). The sample is M with the context's polyphonic gain
applied, clamped to ±CLIP_LEVEL: unchanged inside, and the threshold beyond (R204, R205). -/
def Obligations.OutputsAreSoftClipped : Prop :=
  ∀ (x : MixContext) (slots : List Slot) (n : Noise),
    let y (v : Voice) (sum : Int) : Int :=
      (sum * x.gainN / 32768) * v.amp.toNat / 32768 * x.volume.toNat / 32768
    let s (v : Voice) : Int := (v.oscs.map fun o => (waveGen x.noiseModel x.kind o.phase n).1).sum
    let p := (mixSum x slots n).1 * x.gainV / 32768
    let out := (mixSample x slots n).1.toInt
    (∀ v, (voiceSample x v n).1 = y v (oscSum x.noiseModel x.kind v.oscs n).1) ∧
    (x.kind ≠ .whiteNoise →
      (∀ v : Voice, (oscSum x.noiseModel x.kind v.oscs n).1 = s v) ∧
      (mixSum x slots n).1 =
        (((voicesOf slots).filter fun v => v.stage != .finished).map fun v => y v (s v)).sum) ∧
    (-31130 ≤ out ∧ out ≤ 31130) ∧ (-31130 ≤ p → p ≤ 31130 → out = p) ∧
    (31130 < p → out = 31130) ∧ (p < -31130 → out = -31130)

/-- R201, R204, R225: a mix is evaluated slot by slot in increasing s, and a voice oscillator by oscillator in
increasing i, each evaluation starting from the noise source the last one left; a free slot and a Finished
voice evaluate nothing and add 0. But for WhiteNoise, the sums do not depend on the order. -/
def Obligations.MixIgnoresItsOrder : Prop :=
  ∀ (x : MixContext) (n : Noise),
    (∀ a b : List Slot, mixSum x (a ++ b) n =
      ((mixSum x a n).1 + (mixSum x b (mixSum x a n).2).1, (mixSum x b (mixSum x a n).2).2)) ∧
    mixSum x [none] n = (0, n) ∧
    (∀ v : Voice, v.stage = .finished → mixSum x [some v] n = (0, n)) ∧
    (∀ v : Voice, v.stage ≠ .finished → mixSum x [some v] n =
      ((voiceSample x v n).1, (oscSum x.noiseModel x.kind v.oscs n).2)) ∧
    (∀ a b : List Osc,
      let first := oscSum x.noiseModel x.kind a n
      let second := oscSum x.noiseModel x.kind b first.2
      oscSum x.noiseModel x.kind (a ++ b) n = (first.1 + second.1, second.2)) ∧
    (∀ o : Osc, oscSum x.noiseModel x.kind [o] n = waveGen x.noiseModel x.kind o.phase n) ∧
    (x.kind ≠ .whiteNoise →
      (∀ slots slots' : List Slot, slots.Perm slots' → (mixSum x slots n).1 = (mixSum x slots' n).1) ∧
      (∀ os os' : List Osc, os.Perm os' →
        (oscSum x.noiseModel x.kind os n).1 = (oscSum x.noiseModel x.kind os' n).1))

/-! ## Render pass and pull (45_render.md) -/

/-- R222, R226, R227, R229, R230: a pass writes all 256 entries of BUF, sets CURSOR and BUSY to 0, advances
NSAMP by 256, keeps the slots' number, and leaves every register it has no business with. -/
def Obligations.PassWritesTheBlock : Prop :=
  ∀ (t : Ticks) (s u : State), renderPass t s = .next u →
    u.buf.length = 256 ∧ u.cursor = 0 ∧ u.busy = false ∧ u.nsamp = s.nsamp + 256 ∧
    u.slots.length = s.slots.length ∧
    u = { s with buf := u.buf, cursor := u.cursor, pass := u.pass, nsamp := u.nsamp, slots := u.slots,
                 lfsr := u.lfsr, draws := u.draws }

/-- R224, R227, R228: a pass leaves each occupied slot with its voice updated at the latched time and its
phases advanced by 256 tuning words, or free where the update finished it; a free slot stays free. -/
def Obligations.PassUpdatesAdvancesAndEvicts : Prop :=
  ∀ (t : Ticks) (s u : State), renderPass t s = .next u →
    (∀ i : Nat, s.slots[i]? = some none → u.slots[i]? = some none) ∧
    ∀ (i : Nat) (v : Voice), s.slots[i]? = some (some v) →
      let w := v.update s.cfg t
      (w.stage = .finished → u.slots[i]? = some none) ∧
      (w.stage ≠ .finished → u.slots[i]? = some (some { w with
        oscs := v.oscs.map fun o => { o with phase := o.phase + 256 * o.ftw } }))

/-- R222, R225, R226, R158: entry j of the block a pass writes is the mix of the updated slots with every phase
j tuning words on, scaled by RSQRT[N] and by the factor of the voices counted at the pass. WhiteNoise, which
reads no phase, has its samples in NoiseStepsOncePerEvaluation. -/
def Obligations.SamplesReadTheirOwnPhase : Prop :=
  ∀ (t : Ticks) (s u : State) (n : Noise), renderPass t s = .next u → s.wave ≠ .whiteNoise →
    ∃ gainN gainV, rsqrt s.cfg.numOsc = some gainN ∧
      (if voiceCount s.slots ≤ 1 then gainV = 32768 else rsqrt (voiceCount s.slots) = some gainV) ∧
      ∀ j < 256, u.buf[j]? = some (mixSample
        { noiseModel := s.cfg.noise, kind := s.wave, volume := s.volume, gainN := gainN, gainV := gainV }
        (mapVoices (fun v => { v.update s.cfg t with
          oscs := v.oscs.map fun o => { o with phase := o.phase + BitVec.ofNat 32 j * o.ftw } }) s.slots)
        n).1

/-- R225, R232: a pass with nothing to mix, no voice or none that outlives the update, gives a block of zeros.
-/
def Obligations.PassWithNothingToMixIsSilent : Prop :=
  ∀ (t : Ticks) (s u : State), renderPass t s = .next u →
    (∀ v, some v ∈ s.slots → (v.update s.cfg t).stage = .finished) →
    u.buf.length = 256 ∧ (∀ x ∈ u.buf, x = 0) ∧ ∀ slot ∈ u.slots, slot = none

/-- R137, R225, R226: with the LFSR as noise source, a WhiteNoise pass steps it once for each of 256 × |L| × N
evaluations, and entry j of its block is the mix of the updated slots that starts j × |L| × N evaluations on;
with the free draw the register stays, as many values are drawn, and entry j starts as many draws on; with any
other waveform neither moves. The count of draws is the model's own (notes/assumptions/5.md and 7.md): R137
gives no counter. -/
def Obligations.NoiseStepsOncePerEvaluation : Prop :=
  ∀ (t : Ticks) (s u : State), renderPass t s = .next u →
    (∀ v, some v ∈ s.slots → v.oscs.length = s.cfg.numOsc) →
    let mixed := (voicesOf s.slots).countP fun v => (v.update s.cfg t).stage != .finished
    (s.wave = .whiteNoise → s.cfg.noise = .lfsr →
      u.lfsr = lfsrStep^[256 * mixed * s.cfg.numOsc] s.lfsr ∧ u.draws = s.draws) ∧
    (s.wave = .whiteNoise → s.cfg.noise = .draw →
      u.lfsr = s.lfsr ∧ u.draws = s.draws + 256 * mixed * s.cfg.numOsc) ∧
    (s.wave ≠ .whiteNoise → u.lfsr = s.lfsr ∧ u.draws = s.draws) ∧
    (s.wave = .whiteNoise → ∃ gainN gainV, rsqrt s.cfg.numOsc = some gainN ∧
      (if voiceCount s.slots ≤ 1 then gainV = 32768 else rsqrt (voiceCount s.slots) = some gainV) ∧
      ∀ j < 256, u.buf[j]? = some (mixSample
        { noiseModel := s.cfg.noise, kind := s.wave, volume := s.volume, gainN := gainN, gainV := gainV }
        (mapVoices (Voice.update s.cfg t) s.slots)
        (match s.cfg.noise with
          | .lfsr => { lfsr := lfsrStep^[j * mixed * s.cfg.numOsc] s.lfsr, draws := s.draws }
          | .draw => { lfsr := s.lfsr, draws := s.draws + j * mixed * s.cfg.numOsc })).1)

/-- R220: a pull of a buffered sample hands it over, advances CURSOR and changes nothing else; a pull that
finds the buffer exhausted renders at the present time and serves entry 0. The record of what was handed over
is the model's own (notes/assumptions/5.md). -/
def Obligations.PullServesOneSample : Prop :=
  ∀ s : State,
    (∀ x, s.cursor.toNat < 256 → s.bufRead s.cursor.toNat = some x →
      ∃ t, pull s = .next t ∧ t = { s with cursor := t.cursor, sink := x :: s.sink } ∧
        t.cursor.toNat = s.cursor.toNat + 1) ∧
    (∀ u, s.cursor.toNat = 256 → renderPass s.now s = .next u →
      ∃ x, u.bufRead 0 = some x ∧ pull s = .next { u with cursor := 1, sink := x :: s.sink })

/-- R69: the buffered samples leave in index order, none dropped or repeated, with no pass (seen in the model's
own record: notes/assumptions/5.md). -/
def Obligations.BufferIsServedInOrder : Prop :=
  ∀ (s : State) (n : Nat), s.cfg.Legal → s.pass = none → s.cursor.toNat + n ≤ 256 →
    ∃ xs : List Sample, xs.length = n ∧ (∀ k < n, s.bufRead (s.cursor.toNat + k) = xs[k]?) ∧
      stepMany n (s.setAgenda (List.replicate n .pull)) = .next { s with
        agenda := [], cursor := BitVec.ofNat 9 (s.cursor.toNat + n), sink := xs.reverse ++ s.sink }

/-- R68, R70, R231: a command accepted at CURSOR = c0 is in none of the next 256 - c0 samples pulled, which are
those the sink gets without it (seen in the model's own record: notes/assumptions/5.md). After them the buffer
is exhausted, the state is otherwise what the command left, the pull renders from it whatever BUF held, and all
that the agents do from there runs from that state. -/
def Obligations.CommandsWaitForTheNextPass : Prop :=
  ∀ (i : Instr) (s t : State), s.cfg.Legal → s.pass = none → s.cursor.toNat ≤ 256 → exec i s = .next t →
    let stale := 256 - s.cursor.toNat
    ∃ a b, stepMany stale (s.setAgenda (List.replicate stale .pull)) = .next a ∧
      stepMany stale (t.setAgenda (List.replicate stale .pull)) = .next b ∧
      a.sink = b.sink ∧ b = { t with agenda := [], cursor := 256, sink := b.sink } ∧
      transact .pull b = andThen (renderPass t.now b) serve ∧
      (∀ buf, transact .pull { b with buf := buf } = transact .pull b) ∧
      ∀ k es, stepMany (stale + k) (t.setAgenda (List.replicate stale .pull ++ es)) =
        stepMany k (b.setAgenda es)

/-! ## Ports and edges (30_encoding.md R90 to R93) -/

/-- R91, R92: the handshake outputs, and what the output port carries: the entry of BUF at CURSOR while it
offers a sample, and a free value (I7; its numbering is the model's own: notes/assumptions/16.md) while it does
not. -/
def Obligations.HandshakesFollowTheState : Prop :=
  ∀ (p : Pins) (s : State),
    (cmdReady p s = true ↔ s.busy = false ∧ p.rst = false) ∧
    (outValid p s = true ↔ s.cursor.toNat < 256 ∧ s.busy = false ∧ p.rst = false) ∧
    (outValid p s = true → s.bufRead s.cursor.toNat = some (outData p s)) ∧
    (outValid p s = false → outData p s = Config.outDataIdle s.edges) ∧
    (∀ r, outValid { p with outReady := r } s = outValid p s)

/-- R43: the status and configuration outputs. -/
def Obligations.StatusOutputsShowTheState : Prop :=
  ∀ (s : State), s.slots.length ≤ 64 →
    let o := statusOf s
    o.stVolume = s.volume ∧ o.stWave = s.wave.code ∧ o.stVoices.toNat = (voicesOf s.slots).length ∧
    o.stErr.getLsbD 1 = s.errFull ∧ o.stErr.getLsbD 0 = s.errIllegal ∧
    (o.stBusy = 1 ↔ s.busy = true) ∧ o.cfgRate = BitVec.ofNat 16 s.cfg.sampleRate ∧ o.cfgChannels = 1

/-- R91, R92, R221: the edges with BUSY = 0 and `rst = 0` that trigger no pass, with a tick at the same edge
counted. A sample offered and asked for is transferred and CURSOR advances; a command offered is applied; where
both happen the edge has both effects (the order in which the model applies them is its inference:
notes/assumptions/19.md); and where neither is asked for nothing but NOW changes, so that an exhausted buffer
stays exhausted. The record of what was transferred and the count of edges are the model's own
(notes/assumptions/5.md). -/
def Obligations.EdgeTransfersASample : Prop :=
  ∀ (p : Pins) (s : State), p.rst = false → s.pass = none →
    let now := s.now + (if p.tick then 1 else 0)
    let edges := s.edges + 1
    (outValid p s = true → p.outReady = true →
      (p.cmdValid = false →
        edge p s = .next { s with
          cursor := s.cursor + 1, sink := outData p s :: s.sink, now := now, edges := edges }) ∧
      ∀ t, p.cmdValid = true → exec (decodeWord p.cmdData) s = .next t →
        edge p s = .next { t with
          cursor := s.cursor + 1, sink := outData p s :: s.sink, now := now, edges := edges }) ∧
    (p.outReady = false →
      (p.cmdValid = false → edge p s = .next { s with now := now, edges := edges }) ∧
      ∀ t, p.cmdValid = true → exec (decodeWord p.cmdData) s = .next t →
        edge p s = .next { t with now := now, edges := edges })

/-- R66, R221, R244: at an edge that triggers a pass, a command is applied first where there is one, the pass
latches NOW from before a tick at the same edge, and BUSY becomes 1 for PASS_CYCLES edges. The count of edges
is the model's own (notes/assumptions/5.md). -/
def Obligations.TriggerEdgeAppliesTheCommandFirst : Prop :=
  ∀ (p : Pins) (s : State), p.rst = false → p.outReady = true → s.pass = none → s.cursor = 256 →
    let latched : PassInFlight := { time := s.now, left := s.cfg.passCycles }
    let now := s.now + (if p.tick then 1 else 0)
    (p.cmdValid = false → edge p s = .next { s with pass := some latched, now := now, edges := s.edges + 1 }) ∧
    ∀ t, p.cmdValid = true → exec (decodeWord p.cmdData) s = .next t →
      edge p s = .next { t with pass := some latched, now := now, edges := s.edges + 1 }

/-- R66, R91, R230, R265: while BUSY = 1 both ports are closed, and an edge does the same whatever is offered
or asked for at them. -/
def Obligations.BusyEdgesHoldThePorts : Prop :=
  ∀ (p : Pins) (s : State) (f : PassInFlight) (valid ready : Bool) (word : Word), s.pass = some f →
    cmdReady p s = false ∧ outValid p s = false ∧
    edge { p with cmdValid := valid, cmdData := word, outReady := ready } s = edge p s

/-- R11, R223, R275: a pass spread over its clock edges, with any ticks, commands and pulls offered at them, is
the atomic pass at its latched time, with the ticks counted. It holds for every number of edges. That the
pass's writes all land at its last edge is the model's choice (notes/assumptions/4.md), and the count of edges
its own (notes/assumptions/5.md). -/
def Obligations.PassOverEdgesIsTheAtomicPass : Prop :=
  ∀ (s u : State) (f : PassInFlight) (pins : List Pins), s.cfg.Legal → s.cursor = 256 →
    s.pass = some f → 1 ≤ f.left → pins.length = f.left → (∀ p ∈ pins, p.rst = false) →
    renderPass f.time s = .next u →
    stepMany f.left (s.setAgenda (pins.map .edge)) = .next { u with
      agenda := [], now := s.now + BitVec.ofNat 64 (pins.countP fun p => p.tick), edges := s.edges + f.left }

/-! ## Invariants and whole-machine rules -/

/-- R36 to R44: every legal block meets the invariant right after reset, whatever its agents do next. R32 and
R44 leave BUF unspecified there. The clauses about its form and about clipped samples hold because the model's
BUF then has no written entry (notes/assumptions/3.md), and each of its 256 entries reads as some value. -/
def Obligations.ResetMeetsTheInvariant : Prop :=
  ∀ (c : Config) (es : List Event), c.Legal →
    let s := (State.resetWith c).setAgenda es
    s.Inv ∧ ∀ i, (s.bufRead i).isSome = decide (i < 256)

/-- R24, R25, R29, R31, R36, R37, R38, R39, R42, R155, R205: every step keeps the invariant, with BUF in the
model's form (notes/assumptions/3.md). -/
def Obligations.StepKeepsTheInvariant : Prop :=
  ∀ s t : State, s.Inv → step s = .next t → t.Inv

/-- R240, R246, R247: in a state with the invariant no step faults or refuses, whatever the agents do next.
That a step with no event left answers is the model's own (notes/assumptions/9.md). -/
def Obligations.StepNeverStops : Prop :=
  ∀ (s : State) (es : List Event), s.Inv → ∃ t, step (s.setAgenda es) = .next t

/-- R240, R247: from reset of any legal block, under any interleaving of the four agents, a run of any length
goes on and meets the invariant, with BUF in the model's form (notes/assumptions/3.md) and idle steps once the
agents have nothing more to do (notes/assumptions/9.md). -/
def Obligations.EveryRunGoesOn : Prop :=
  ∀ (c : Config) (es : List Event) (k : Nat), c.Legal →
    ∃ t, stepMany k ((State.resetWith c).setAgenda es) = .next t ∧ t.Inv

/-- R5, R45: no step changes a parameter. -/
def Obligations.ParametersNeverChange : Prop :=
  ∀ s t : State, step s = .next t → t.cfg = s.cfg

/-- R39, R260: no stage starts later than now after reset, nor after any step over which NOW does not wrap
(D31; notes/assumptions/17.md), a reset being no wrap: it sets NOW to 0 with no voice left. -/
def Obligations.StagesStartInThePast : Prop :=
  (∀ (c : Config) (es : List Event), ((State.resetWith c).setAgenda es).StartsInPast) ∧
  ∀ s t : State, s.StartsInPast → step s = .next t →
    (s.now.toNat ≤ t.now.toNat ∨ ∃ e rest, s.agenda = e :: rest ∧ e.isReset = true) → t.StartsInPast
end

