-- ==== Sys2Proof/Laws/State.lean ====
section
/-! SUPPORT. What each named update of State does to each field: one lemma per field per update. -/

namespace Sys2Proof.Machine

/-! ## setFlag_illegal -/

@[simp] theorem setFlag_illegal_cfg (s : State) : (s.setFlag .errIllegal).cfg = s.cfg := rfl
@[simp] theorem setFlag_illegal_wave (s : State) : (s.setFlag .errIllegal).wave = s.wave := rfl
@[simp] theorem setFlag_illegal_volume (s : State) : (s.setFlag .errIllegal).volume = s.volume := rfl
@[simp] theorem setFlag_illegal_detune (s : State) : (s.setFlag .errIllegal).detune = s.detune := rfl
@[simp] theorem setFlag_illegal_errIllegal (s : State) : (s.setFlag .errIllegal).errIllegal = true := rfl
@[simp] theorem setFlag_illegal_errFull (s : State) : (s.setFlag .errIllegal).errFull = s.errFull := rfl
@[simp] theorem setFlag_illegal_nsamp (s : State) : (s.setFlag .errIllegal).nsamp = s.nsamp := rfl
@[simp] theorem setFlag_illegal_lfsr (s : State) : (s.setFlag .errIllegal).lfsr = s.lfsr := rfl
@[simp] theorem setFlag_illegal_now (s : State) : (s.setFlag .errIllegal).now = s.now := rfl
@[simp] theorem setFlag_illegal_cursor (s : State) : (s.setFlag .errIllegal).cursor = s.cursor := rfl
@[simp] theorem setFlag_illegal_buf (s : State) : (s.setFlag .errIllegal).buf = s.buf := rfl
@[simp] theorem setFlag_illegal_slots (s : State) : (s.setFlag .errIllegal).slots = s.slots := rfl
@[simp] theorem setFlag_illegal_pass (s : State) : (s.setFlag .errIllegal).pass = s.pass := rfl
@[simp] theorem setFlag_illegal_draws (s : State) : (s.setFlag .errIllegal).draws = s.draws := rfl
@[simp] theorem setFlag_illegal_resets (s : State) : (s.setFlag .errIllegal).resets = s.resets := rfl
@[simp] theorem setFlag_illegal_edges (s : State) : (s.setFlag .errIllegal).edges = s.edges := rfl
@[simp] theorem setFlag_illegal_agenda (s : State) : (s.setFlag .errIllegal).agenda = s.agenda := rfl
@[simp] theorem setFlag_illegal_sink (s : State) : (s.setFlag .errIllegal).sink = s.sink := rfl

/-! ## setFlag_full -/

@[simp] theorem setFlag_full_cfg (s : State) : (s.setFlag .errFull).cfg = s.cfg := rfl
@[simp] theorem setFlag_full_wave (s : State) : (s.setFlag .errFull).wave = s.wave := rfl
@[simp] theorem setFlag_full_volume (s : State) : (s.setFlag .errFull).volume = s.volume := rfl
@[simp] theorem setFlag_full_detune (s : State) : (s.setFlag .errFull).detune = s.detune := rfl
@[simp] theorem setFlag_full_errIllegal (s : State) : (s.setFlag .errFull).errIllegal = s.errIllegal := rfl
@[simp] theorem setFlag_full_errFull (s : State) : (s.setFlag .errFull).errFull = true := rfl
@[simp] theorem setFlag_full_nsamp (s : State) : (s.setFlag .errFull).nsamp = s.nsamp := rfl
@[simp] theorem setFlag_full_lfsr (s : State) : (s.setFlag .errFull).lfsr = s.lfsr := rfl
@[simp] theorem setFlag_full_now (s : State) : (s.setFlag .errFull).now = s.now := rfl
@[simp] theorem setFlag_full_cursor (s : State) : (s.setFlag .errFull).cursor = s.cursor := rfl
@[simp] theorem setFlag_full_buf (s : State) : (s.setFlag .errFull).buf = s.buf := rfl
@[simp] theorem setFlag_full_slots (s : State) : (s.setFlag .errFull).slots = s.slots := rfl
@[simp] theorem setFlag_full_pass (s : State) : (s.setFlag .errFull).pass = s.pass := rfl
@[simp] theorem setFlag_full_draws (s : State) : (s.setFlag .errFull).draws = s.draws := rfl
@[simp] theorem setFlag_full_resets (s : State) : (s.setFlag .errFull).resets = s.resets := rfl
@[simp] theorem setFlag_full_edges (s : State) : (s.setFlag .errFull).edges = s.edges := rfl
@[simp] theorem setFlag_full_agenda (s : State) : (s.setFlag .errFull).agenda = s.agenda := rfl
@[simp] theorem setFlag_full_sink (s : State) : (s.setFlag .errFull).sink = s.sink := rfl

/-! ## clearFlags -/

@[simp] theorem clearFlags_cfg (s : State) : (s.clearFlags).cfg = s.cfg := rfl
@[simp] theorem clearFlags_wave (s : State) : (s.clearFlags).wave = s.wave := rfl
@[simp] theorem clearFlags_volume (s : State) : (s.clearFlags).volume = s.volume := rfl
@[simp] theorem clearFlags_detune (s : State) : (s.clearFlags).detune = s.detune := rfl
@[simp] theorem clearFlags_errIllegal (s : State) : (s.clearFlags).errIllegal = false := rfl
@[simp] theorem clearFlags_errFull (s : State) : (s.clearFlags).errFull = false := rfl
@[simp] theorem clearFlags_nsamp (s : State) : (s.clearFlags).nsamp = s.nsamp := rfl
@[simp] theorem clearFlags_lfsr (s : State) : (s.clearFlags).lfsr = s.lfsr := rfl
@[simp] theorem clearFlags_now (s : State) : (s.clearFlags).now = s.now := rfl
@[simp] theorem clearFlags_cursor (s : State) : (s.clearFlags).cursor = s.cursor := rfl
@[simp] theorem clearFlags_buf (s : State) : (s.clearFlags).buf = s.buf := rfl
@[simp] theorem clearFlags_slots (s : State) : (s.clearFlags).slots = s.slots := rfl
@[simp] theorem clearFlags_pass (s : State) : (s.clearFlags).pass = s.pass := rfl
@[simp] theorem clearFlags_draws (s : State) : (s.clearFlags).draws = s.draws := rfl
@[simp] theorem clearFlags_resets (s : State) : (s.clearFlags).resets = s.resets := rfl
@[simp] theorem clearFlags_edges (s : State) : (s.clearFlags).edges = s.edges := rfl
@[simp] theorem clearFlags_agenda (s : State) : (s.clearFlags).agenda = s.agenda := rfl
@[simp] theorem clearFlags_sink (s : State) : (s.clearFlags).sink = s.sink := rfl

/-! ## setWave -/

@[simp] theorem setWave_cfg (s : State) (k : WaveKind) : (s.setWave k).cfg = s.cfg := rfl
@[simp] theorem setWave_wave (s : State) (k : WaveKind) : (s.setWave k).wave = k := rfl
@[simp] theorem setWave_volume (s : State) (k : WaveKind) : (s.setWave k).volume = s.volume := rfl
@[simp] theorem setWave_detune (s : State) (k : WaveKind) : (s.setWave k).detune = s.detune := rfl
@[simp] theorem setWave_errIllegal (s : State) (k : WaveKind) : (s.setWave k).errIllegal = s.errIllegal := rfl
@[simp] theorem setWave_errFull (s : State) (k : WaveKind) : (s.setWave k).errFull = s.errFull := rfl
@[simp] theorem setWave_nsamp (s : State) (k : WaveKind) : (s.setWave k).nsamp = s.nsamp := rfl
@[simp] theorem setWave_lfsr (s : State) (k : WaveKind) : (s.setWave k).lfsr = s.lfsr := rfl
@[simp] theorem setWave_now (s : State) (k : WaveKind) : (s.setWave k).now = s.now := rfl
@[simp] theorem setWave_cursor (s : State) (k : WaveKind) : (s.setWave k).cursor = s.cursor := rfl
@[simp] theorem setWave_buf (s : State) (k : WaveKind) : (s.setWave k).buf = s.buf := rfl
@[simp] theorem setWave_slots (s : State) (k : WaveKind) : (s.setWave k).slots = s.slots := rfl
@[simp] theorem setWave_pass (s : State) (k : WaveKind) : (s.setWave k).pass = s.pass := rfl
@[simp] theorem setWave_draws (s : State) (k : WaveKind) : (s.setWave k).draws = s.draws := rfl
@[simp] theorem setWave_resets (s : State) (k : WaveKind) : (s.setWave k).resets = s.resets := rfl
@[simp] theorem setWave_edges (s : State) (k : WaveKind) : (s.setWave k).edges = s.edges := rfl
@[simp] theorem setWave_agenda (s : State) (k : WaveKind) : (s.setWave k).agenda = s.agenda := rfl
@[simp] theorem setWave_sink (s : State) (k : WaveKind) : (s.setWave k).sink = s.sink := rfl

/-! ## setVolume -/

@[simp] theorem setVolume_cfg (s : State) (v : Gain) : (s.setVolume v).cfg = s.cfg := rfl
@[simp] theorem setVolume_wave (s : State) (v : Gain) : (s.setVolume v).wave = s.wave := rfl
@[simp] theorem setVolume_volume (s : State) (v : Gain) : (s.setVolume v).volume = v := rfl
@[simp] theorem setVolume_detune (s : State) (v : Gain) : (s.setVolume v).detune = s.detune := rfl
@[simp] theorem setVolume_errIllegal (s : State) (v : Gain) : (s.setVolume v).errIllegal = s.errIllegal := rfl
@[simp] theorem setVolume_errFull (s : State) (v : Gain) : (s.setVolume v).errFull = s.errFull := rfl
@[simp] theorem setVolume_nsamp (s : State) (v : Gain) : (s.setVolume v).nsamp = s.nsamp := rfl
@[simp] theorem setVolume_lfsr (s : State) (v : Gain) : (s.setVolume v).lfsr = s.lfsr := rfl
@[simp] theorem setVolume_now (s : State) (v : Gain) : (s.setVolume v).now = s.now := rfl
@[simp] theorem setVolume_cursor (s : State) (v : Gain) : (s.setVolume v).cursor = s.cursor := rfl
@[simp] theorem setVolume_buf (s : State) (v : Gain) : (s.setVolume v).buf = s.buf := rfl
@[simp] theorem setVolume_slots (s : State) (v : Gain) : (s.setVolume v).slots = s.slots := rfl
@[simp] theorem setVolume_pass (s : State) (v : Gain) : (s.setVolume v).pass = s.pass := rfl
@[simp] theorem setVolume_draws (s : State) (v : Gain) : (s.setVolume v).draws = s.draws := rfl
@[simp] theorem setVolume_resets (s : State) (v : Gain) : (s.setVolume v).resets = s.resets := rfl
@[simp] theorem setVolume_edges (s : State) (v : Gain) : (s.setVolume v).edges = s.edges := rfl
@[simp] theorem setVolume_agenda (s : State) (v : Gain) : (s.setVolume v).agenda = s.agenda := rfl
@[simp] theorem setVolume_sink (s : State) (v : Gain) : (s.setVolume v).sink = s.sink := rfl

/-! ## setDetune -/

@[simp] theorem setDetune_cfg (s : State) (d : Detune) : (s.setDetune d).cfg = s.cfg := rfl
@[simp] theorem setDetune_wave (s : State) (d : Detune) : (s.setDetune d).wave = s.wave := rfl
@[simp] theorem setDetune_volume (s : State) (d : Detune) : (s.setDetune d).volume = s.volume := rfl
@[simp] theorem setDetune_detune (s : State) (d : Detune) : (s.setDetune d).detune = d := rfl
@[simp] theorem setDetune_errIllegal (s : State) (d : Detune) : (s.setDetune d).errIllegal = s.errIllegal := rfl
@[simp] theorem setDetune_errFull (s : State) (d : Detune) : (s.setDetune d).errFull = s.errFull := rfl
@[simp] theorem setDetune_nsamp (s : State) (d : Detune) : (s.setDetune d).nsamp = s.nsamp := rfl
@[simp] theorem setDetune_lfsr (s : State) (d : Detune) : (s.setDetune d).lfsr = s.lfsr := rfl
@[simp] theorem setDetune_now (s : State) (d : Detune) : (s.setDetune d).now = s.now := rfl
@[simp] theorem setDetune_cursor (s : State) (d : Detune) : (s.setDetune d).cursor = s.cursor := rfl
@[simp] theorem setDetune_buf (s : State) (d : Detune) : (s.setDetune d).buf = s.buf := rfl
@[simp] theorem setDetune_slots (s : State) (d : Detune) : (s.setDetune d).slots = s.slots := rfl
@[simp] theorem setDetune_pass (s : State) (d : Detune) : (s.setDetune d).pass = s.pass := rfl
@[simp] theorem setDetune_draws (s : State) (d : Detune) : (s.setDetune d).draws = s.draws := rfl
@[simp] theorem setDetune_resets (s : State) (d : Detune) : (s.setDetune d).resets = s.resets := rfl
@[simp] theorem setDetune_edges (s : State) (d : Detune) : (s.setDetune d).edges = s.edges := rfl
@[simp] theorem setDetune_agenda (s : State) (d : Detune) : (s.setDetune d).agenda = s.agenda := rfl
@[simp] theorem setDetune_sink (s : State) (d : Detune) : (s.setDetune d).sink = s.sink := rfl

/-! ## advanceNow -/

@[simp] theorem advanceNow_cfg (s : State) (k : Nat) : (s.advanceNow k).cfg = s.cfg := rfl
@[simp] theorem advanceNow_wave (s : State) (k : Nat) : (s.advanceNow k).wave = s.wave := rfl
@[simp] theorem advanceNow_volume (s : State) (k : Nat) : (s.advanceNow k).volume = s.volume := rfl
@[simp] theorem advanceNow_detune (s : State) (k : Nat) : (s.advanceNow k).detune = s.detune := rfl
@[simp] theorem advanceNow_errIllegal (s : State) (k : Nat) : (s.advanceNow k).errIllegal = s.errIllegal := rfl
@[simp] theorem advanceNow_errFull (s : State) (k : Nat) : (s.advanceNow k).errFull = s.errFull := rfl
@[simp] theorem advanceNow_nsamp (s : State) (k : Nat) : (s.advanceNow k).nsamp = s.nsamp := rfl
@[simp] theorem advanceNow_lfsr (s : State) (k : Nat) : (s.advanceNow k).lfsr = s.lfsr := rfl
@[simp] theorem advanceNow_now (s : State) (k : Nat) : (s.advanceNow k).now = s.now + BitVec.ofNat 64 k := rfl
@[simp] theorem advanceNow_cursor (s : State) (k : Nat) : (s.advanceNow k).cursor = s.cursor := rfl
@[simp] theorem advanceNow_buf (s : State) (k : Nat) : (s.advanceNow k).buf = s.buf := rfl
@[simp] theorem advanceNow_slots (s : State) (k : Nat) : (s.advanceNow k).slots = s.slots := rfl
@[simp] theorem advanceNow_pass (s : State) (k : Nat) : (s.advanceNow k).pass = s.pass := rfl
@[simp] theorem advanceNow_draws (s : State) (k : Nat) : (s.advanceNow k).draws = s.draws := rfl
@[simp] theorem advanceNow_resets (s : State) (k : Nat) : (s.advanceNow k).resets = s.resets := rfl
@[simp] theorem advanceNow_edges (s : State) (k : Nat) : (s.advanceNow k).edges = s.edges := rfl
@[simp] theorem advanceNow_agenda (s : State) (k : Nat) : (s.advanceNow k).agenda = s.agenda := rfl
@[simp] theorem advanceNow_sink (s : State) (k : Nat) : (s.advanceNow k).sink = s.sink := rfl

/-! ## setSlots -/

@[simp] theorem setSlots_cfg (s : State) (l : List Slot) : (s.setSlots l).cfg = s.cfg := rfl
@[simp] theorem setSlots_wave (s : State) (l : List Slot) : (s.setSlots l).wave = s.wave := rfl
@[simp] theorem setSlots_volume (s : State) (l : List Slot) : (s.setSlots l).volume = s.volume := rfl
@[simp] theorem setSlots_detune (s : State) (l : List Slot) : (s.setSlots l).detune = s.detune := rfl
@[simp] theorem setSlots_errIllegal (s : State) (l : List Slot) : (s.setSlots l).errIllegal = s.errIllegal := rfl
@[simp] theorem setSlots_errFull (s : State) (l : List Slot) : (s.setSlots l).errFull = s.errFull := rfl
@[simp] theorem setSlots_nsamp (s : State) (l : List Slot) : (s.setSlots l).nsamp = s.nsamp := rfl
@[simp] theorem setSlots_lfsr (s : State) (l : List Slot) : (s.setSlots l).lfsr = s.lfsr := rfl
@[simp] theorem setSlots_now (s : State) (l : List Slot) : (s.setSlots l).now = s.now := rfl
@[simp] theorem setSlots_cursor (s : State) (l : List Slot) : (s.setSlots l).cursor = s.cursor := rfl
@[simp] theorem setSlots_buf (s : State) (l : List Slot) : (s.setSlots l).buf = s.buf := rfl
@[simp] theorem setSlots_slots (s : State) (l : List Slot) : (s.setSlots l).slots = l := rfl
@[simp] theorem setSlots_pass (s : State) (l : List Slot) : (s.setSlots l).pass = s.pass := rfl
@[simp] theorem setSlots_draws (s : State) (l : List Slot) : (s.setSlots l).draws = s.draws := rfl
@[simp] theorem setSlots_resets (s : State) (l : List Slot) : (s.setSlots l).resets = s.resets := rfl
@[simp] theorem setSlots_edges (s : State) (l : List Slot) : (s.setSlots l).edges = s.edges := rfl
@[simp] theorem setSlots_agenda (s : State) (l : List Slot) : (s.setSlots l).agenda = s.agenda := rfl
@[simp] theorem setSlots_sink (s : State) (l : List Slot) : (s.setSlots l).sink = s.sink := rfl

/-! ## loadBlock -/

@[simp] theorem loadBlock_cfg (s : State) (b : List Sample) : (s.loadBlock b).cfg = s.cfg := rfl
@[simp] theorem loadBlock_wave (s : State) (b : List Sample) : (s.loadBlock b).wave = s.wave := rfl
@[simp] theorem loadBlock_volume (s : State) (b : List Sample) : (s.loadBlock b).volume = s.volume := rfl
@[simp] theorem loadBlock_detune (s : State) (b : List Sample) : (s.loadBlock b).detune = s.detune := rfl
@[simp] theorem loadBlock_errIllegal (s : State) (b : List Sample) : (s.loadBlock b).errIllegal = s.errIllegal := rfl
@[simp] theorem loadBlock_errFull (s : State) (b : List Sample) : (s.loadBlock b).errFull = s.errFull := rfl
@[simp] theorem loadBlock_nsamp (s : State) (b : List Sample) : (s.loadBlock b).nsamp = s.nsamp := rfl
@[simp] theorem loadBlock_lfsr (s : State) (b : List Sample) : (s.loadBlock b).lfsr = s.lfsr := rfl
@[simp] theorem loadBlock_now (s : State) (b : List Sample) : (s.loadBlock b).now = s.now := rfl
@[simp] theorem loadBlock_cursor (s : State) (b : List Sample) : (s.loadBlock b).cursor = 0 := rfl
@[simp] theorem loadBlock_buf (s : State) (b : List Sample) : (s.loadBlock b).buf = b := rfl
@[simp] theorem loadBlock_slots (s : State) (b : List Sample) : (s.loadBlock b).slots = s.slots := rfl
@[simp] theorem loadBlock_pass (s : State) (b : List Sample) : (s.loadBlock b).pass = s.pass := rfl
@[simp] theorem loadBlock_draws (s : State) (b : List Sample) : (s.loadBlock b).draws = s.draws := rfl
@[simp] theorem loadBlock_resets (s : State) (b : List Sample) : (s.loadBlock b).resets = s.resets := rfl
@[simp] theorem loadBlock_edges (s : State) (b : List Sample) : (s.loadBlock b).edges = s.edges := rfl
@[simp] theorem loadBlock_agenda (s : State) (b : List Sample) : (s.loadBlock b).agenda = s.agenda := rfl
@[simp] theorem loadBlock_sink (s : State) (b : List Sample) : (s.loadBlock b).sink = s.sink := rfl

/-! ## deliver -/

@[simp] theorem deliver_cfg (s : State) (x : Sample) : (s.deliver x).cfg = s.cfg := rfl
@[simp] theorem deliver_wave (s : State) (x : Sample) : (s.deliver x).wave = s.wave := rfl
@[simp] theorem deliver_volume (s : State) (x : Sample) : (s.deliver x).volume = s.volume := rfl
@[simp] theorem deliver_detune (s : State) (x : Sample) : (s.deliver x).detune = s.detune := rfl
@[simp] theorem deliver_errIllegal (s : State) (x : Sample) : (s.deliver x).errIllegal = s.errIllegal := rfl
@[simp] theorem deliver_errFull (s : State) (x : Sample) : (s.deliver x).errFull = s.errFull := rfl
@[simp] theorem deliver_nsamp (s : State) (x : Sample) : (s.deliver x).nsamp = s.nsamp := rfl
@[simp] theorem deliver_lfsr (s : State) (x : Sample) : (s.deliver x).lfsr = s.lfsr := rfl
@[simp] theorem deliver_now (s : State) (x : Sample) : (s.deliver x).now = s.now := rfl
@[simp] theorem deliver_cursor (s : State) (x : Sample) : (s.deliver x).cursor = s.cursor + 1 := rfl
@[simp] theorem deliver_buf (s : State) (x : Sample) : (s.deliver x).buf = s.buf := rfl
@[simp] theorem deliver_slots (s : State) (x : Sample) : (s.deliver x).slots = s.slots := rfl
@[simp] theorem deliver_pass (s : State) (x : Sample) : (s.deliver x).pass = s.pass := rfl
@[simp] theorem deliver_draws (s : State) (x : Sample) : (s.deliver x).draws = s.draws := rfl
@[simp] theorem deliver_resets (s : State) (x : Sample) : (s.deliver x).resets = s.resets := rfl
@[simp] theorem deliver_edges (s : State) (x : Sample) : (s.deliver x).edges = s.edges := rfl
@[simp] theorem deliver_agenda (s : State) (x : Sample) : (s.deliver x).agenda = s.agenda := rfl
@[simp] theorem deliver_sink (s : State) (x : Sample) : (s.deliver x).sink = x :: s.sink := rfl

/-! ## setPass -/

@[simp] theorem setPass_cfg (s : State) (p : Option PassInFlight) : (s.setPass p).cfg = s.cfg := rfl
@[simp] theorem setPass_wave (s : State) (p : Option PassInFlight) : (s.setPass p).wave = s.wave := rfl
@[simp] theorem setPass_volume (s : State) (p : Option PassInFlight) : (s.setPass p).volume = s.volume := rfl
@[simp] theorem setPass_detune (s : State) (p : Option PassInFlight) : (s.setPass p).detune = s.detune := rfl
@[simp] theorem setPass_errIllegal (s : State) (p : Option PassInFlight) : (s.setPass p).errIllegal = s.errIllegal := rfl
@[simp] theorem setPass_errFull (s : State) (p : Option PassInFlight) : (s.setPass p).errFull = s.errFull := rfl
@[simp] theorem setPass_nsamp (s : State) (p : Option PassInFlight) : (s.setPass p).nsamp = s.nsamp := rfl
@[simp] theorem setPass_lfsr (s : State) (p : Option PassInFlight) : (s.setPass p).lfsr = s.lfsr := rfl
@[simp] theorem setPass_now (s : State) (p : Option PassInFlight) : (s.setPass p).now = s.now := rfl
@[simp] theorem setPass_cursor (s : State) (p : Option PassInFlight) : (s.setPass p).cursor = s.cursor := rfl
@[simp] theorem setPass_buf (s : State) (p : Option PassInFlight) : (s.setPass p).buf = s.buf := rfl
@[simp] theorem setPass_slots (s : State) (p : Option PassInFlight) : (s.setPass p).slots = s.slots := rfl
@[simp] theorem setPass_pass (s : State) (p : Option PassInFlight) : (s.setPass p).pass = p := rfl
@[simp] theorem setPass_draws (s : State) (p : Option PassInFlight) : (s.setPass p).draws = s.draws := rfl
@[simp] theorem setPass_resets (s : State) (p : Option PassInFlight) : (s.setPass p).resets = s.resets := rfl
@[simp] theorem setPass_edges (s : State) (p : Option PassInFlight) : (s.setPass p).edges = s.edges := rfl
@[simp] theorem setPass_agenda (s : State) (p : Option PassInFlight) : (s.setPass p).agenda = s.agenda := rfl
@[simp] theorem setPass_sink (s : State) (p : Option PassInFlight) : (s.setPass p).sink = s.sink := rfl

/-! ## setAgenda -/

@[simp] theorem setAgenda_cfg (s : State) (es : List Event) : (s.setAgenda es).cfg = s.cfg := rfl
@[simp] theorem setAgenda_wave (s : State) (es : List Event) : (s.setAgenda es).wave = s.wave := rfl
@[simp] theorem setAgenda_volume (s : State) (es : List Event) : (s.setAgenda es).volume = s.volume := rfl
@[simp] theorem setAgenda_detune (s : State) (es : List Event) : (s.setAgenda es).detune = s.detune := rfl
@[simp] theorem setAgenda_errIllegal (s : State) (es : List Event) : (s.setAgenda es).errIllegal = s.errIllegal := rfl
@[simp] theorem setAgenda_errFull (s : State) (es : List Event) : (s.setAgenda es).errFull = s.errFull := rfl
@[simp] theorem setAgenda_nsamp (s : State) (es : List Event) : (s.setAgenda es).nsamp = s.nsamp := rfl
@[simp] theorem setAgenda_lfsr (s : State) (es : List Event) : (s.setAgenda es).lfsr = s.lfsr := rfl
@[simp] theorem setAgenda_now (s : State) (es : List Event) : (s.setAgenda es).now = s.now := rfl
@[simp] theorem setAgenda_cursor (s : State) (es : List Event) : (s.setAgenda es).cursor = s.cursor := rfl
@[simp] theorem setAgenda_buf (s : State) (es : List Event) : (s.setAgenda es).buf = s.buf := rfl
@[simp] theorem setAgenda_slots (s : State) (es : List Event) : (s.setAgenda es).slots = s.slots := rfl
@[simp] theorem setAgenda_pass (s : State) (es : List Event) : (s.setAgenda es).pass = s.pass := rfl
@[simp] theorem setAgenda_draws (s : State) (es : List Event) : (s.setAgenda es).draws = s.draws := rfl
@[simp] theorem setAgenda_resets (s : State) (es : List Event) : (s.setAgenda es).resets = s.resets := rfl
@[simp] theorem setAgenda_edges (s : State) (es : List Event) : (s.setAgenda es).edges = s.edges := rfl
@[simp] theorem setAgenda_agenda (s : State) (es : List Event) : (s.setAgenda es).agenda = es := rfl
@[simp] theorem setAgenda_sink (s : State) (es : List Event) : (s.setAgenda es).sink = s.sink := rfl

/-! ## resetBlock -/

@[simp] theorem resetBlock_cfg (s : State) : (s.resetBlock).cfg = s.cfg := rfl
@[simp] theorem resetBlock_wave (s : State) : (s.resetBlock).wave = .sine := rfl
@[simp] theorem resetBlock_volume (s : State) : (s.resetBlock).volume = BitVec.ofNat 16 s.cfg.resetVolume := rfl
@[simp] theorem resetBlock_detune (s : State) : (s.resetBlock).detune = BitVec.ofNat 17 s.cfg.resetDetune := rfl
@[simp] theorem resetBlock_errIllegal (s : State) : (s.resetBlock).errIllegal = false := rfl
@[simp] theorem resetBlock_errFull (s : State) : (s.resetBlock).errFull = false := rfl
@[simp] theorem resetBlock_nsamp (s : State) : (s.resetBlock).nsamp = 0 := rfl
@[simp] theorem resetBlock_lfsr (s : State) : (s.resetBlock).lfsr = BitVec.ofNat 32 s.cfg.lfsrSeed := rfl
@[simp] theorem resetBlock_now (s : State) : (s.resetBlock).now = 0 := rfl
@[simp] theorem resetBlock_cursor (s : State) : (s.resetBlock).cursor = 256 := rfl
@[simp] theorem resetBlock_buf (s : State) : (s.resetBlock).buf = [] := rfl
@[simp] theorem resetBlock_slots (s : State) : (s.resetBlock).slots = List.replicate s.cfg.maxVoices none := rfl
@[simp] theorem resetBlock_pass (s : State) : (s.resetBlock).pass = none := rfl
@[simp] theorem resetBlock_draws (s : State) : (s.resetBlock).draws = s.draws := rfl
@[simp] theorem resetBlock_resets (s : State) : (s.resetBlock).resets = s.resets + 1 := rfl
@[simp] theorem resetBlock_edges (s : State) : (s.resetBlock).edges = s.edges := rfl
@[simp] theorem resetBlock_agenda (s : State) : (s.resetBlock).agenda = s.agenda := rfl
@[simp] theorem resetBlock_sink (s : State) : (s.resetBlock).sink = s.sink := rfl

/-! ## finishPass -/

@[simp] theorem finishPass_cfg (s : State) (l : List Sample × PassState) : (s.finishPass l).cfg = s.cfg := rfl
@[simp] theorem finishPass_wave (s : State) (l : List Sample × PassState) : (s.finishPass l).wave = s.wave := rfl
@[simp] theorem finishPass_volume (s : State) (l : List Sample × PassState) : (s.finishPass l).volume = s.volume := rfl
@[simp] theorem finishPass_detune (s : State) (l : List Sample × PassState) : (s.finishPass l).detune = s.detune := rfl
@[simp] theorem finishPass_errIllegal (s : State) (l : List Sample × PassState) : (s.finishPass l).errIllegal = s.errIllegal := rfl
@[simp] theorem finishPass_errFull (s : State) (l : List Sample × PassState) : (s.finishPass l).errFull = s.errFull := rfl
@[simp] theorem finishPass_nsamp (s : State) (l : List Sample × PassState) : (s.finishPass l).nsamp = l.2.nsamp := rfl
@[simp] theorem finishPass_lfsr (s : State) (l : List Sample × PassState) : (s.finishPass l).lfsr = l.2.noise.lfsr := rfl
@[simp] theorem finishPass_now (s : State) (l : List Sample × PassState) : (s.finishPass l).now = s.now := rfl
@[simp] theorem finishPass_cursor (s : State) (l : List Sample × PassState) : (s.finishPass l).cursor = 0 := rfl
@[simp] theorem finishPass_buf (s : State) (l : List Sample × PassState) : (s.finishPass l).buf = l.1 := rfl
@[simp] theorem finishPass_slots (s : State) (l : List Sample × PassState) : (s.finishPass l).slots = evict l.2.slots := rfl
@[simp] theorem finishPass_pass (s : State) (l : List Sample × PassState) : (s.finishPass l).pass = none := rfl
@[simp] theorem finishPass_draws (s : State) (l : List Sample × PassState) : (s.finishPass l).draws = l.2.noise.draws := rfl
@[simp] theorem finishPass_resets (s : State) (l : List Sample × PassState) : (s.finishPass l).resets = s.resets := rfl
@[simp] theorem finishPass_edges (s : State) (l : List Sample × PassState) : (s.finishPass l).edges = s.edges := rfl
@[simp] theorem finishPass_agenda (s : State) (l : List Sample × PassState) : (s.finishPass l).agenda = s.agenda := rfl
@[simp] theorem finishPass_sink (s : State) (l : List Sample × PassState) : (s.finishPass l).sink = s.sink := rfl

/-! ## countEdge -/

@[simp] theorem countEdge_cfg (s : State) : s.countEdge.cfg = s.cfg := rfl
@[simp] theorem countEdge_wave (s : State) : s.countEdge.wave = s.wave := rfl
@[simp] theorem countEdge_volume (s : State) : s.countEdge.volume = s.volume := rfl
@[simp] theorem countEdge_detune (s : State) : s.countEdge.detune = s.detune := rfl
@[simp] theorem countEdge_errIllegal (s : State) : s.countEdge.errIllegal = s.errIllegal := rfl
@[simp] theorem countEdge_errFull (s : State) : s.countEdge.errFull = s.errFull := rfl
@[simp] theorem countEdge_nsamp (s : State) : s.countEdge.nsamp = s.nsamp := rfl
@[simp] theorem countEdge_lfsr (s : State) : s.countEdge.lfsr = s.lfsr := rfl
@[simp] theorem countEdge_now (s : State) : s.countEdge.now = s.now := rfl
@[simp] theorem countEdge_cursor (s : State) : s.countEdge.cursor = s.cursor := rfl
@[simp] theorem countEdge_buf (s : State) : s.countEdge.buf = s.buf := rfl
@[simp] theorem countEdge_slots (s : State) : s.countEdge.slots = s.slots := rfl
@[simp] theorem countEdge_pass (s : State) : s.countEdge.pass = s.pass := rfl
@[simp] theorem countEdge_draws (s : State) : s.countEdge.draws = s.draws := rfl
@[simp] theorem countEdge_resets (s : State) : s.countEdge.resets = s.resets := rfl
@[simp] theorem countEdge_edges (s : State) : s.countEdge.edges = s.edges + 1 := rfl
@[simp] theorem countEdge_agenda (s : State) : s.countEdge.agenda = s.agenda := rfl
@[simp] theorem countEdge_sink (s : State) : s.countEdge.sink = s.sink := rfl

/-! ## BUSY -/

@[simp] theorem busy_setPass (s : State) (p : Option PassInFlight) : (s.setPass p).busy = p.isSome := rfl
@[simp] theorem busy_setAgenda (s : State) (es : List Event) : (s.setAgenda es).busy = s.busy := rfl

/-! ## Updates of different fields commute, and of one field overwrite -/

@[simp] theorem setAgenda_setAgenda (s : State) (a b : List Event) : (s.setAgenda a).setAgenda b = s.setAgenda b := rfl
@[simp] theorem setSlots_setSlots (s : State) (a b : List Slot) : (s.setSlots a).setSlots b = s.setSlots b := rfl
@[simp] theorem setPass_setPass (s : State) (a b : Option PassInFlight) : (s.setPass a).setPass b = s.setPass b := rfl
theorem setAgenda_self (s : State) : s.setAgenda s.agenda = s := rfl
theorem setSlots_self (s : State) : s.setSlots s.slots = s := rfl

end Sys2Proof.Machine
end

