-- ==== Sys2Proof/Laws/Ops.lean ====
section
/-! SUPPORT. What the shared operations over results, slots and fixed-point numbers do. -/

namespace Sys2Proof.Machine

/-! ## andThen -/

@[simp] theorem andThen_next (s : State) (f : State → Result) : andThen (.next s) f = f s := rfl
@[simp] theorem andThen_fault (x : Fault) (f : State → Result) : andThen (.fault x) f = .fault x := rfl
@[simp] theorem andThen_refused (x : Refusal) (f : State → Result) : andThen (.refused x) f = .refused x := rfl

/-- A sequence ends in a next state exactly when both parts do. -/
theorem andThen_eq_next {r : Result} {f : State → Result} {t : State} :
    andThen r f = .next t ↔ ∃ s, r = .next s ∧ f s = .next t := by
  cases r <;> simp

/-- A sequence refuses exactly when its first part does, or its second after it. -/
theorem andThen_eq_refused {r : Result} {f : State → Result} {x : Refusal} :
    andThen r f = .refused x ↔ r = .refused x ∨ ∃ s, r = .next s ∧ f s = .refused x := by
  cases r <;> simp

theorem andThen_assoc (r : Result) (f g : State → Result) :
    andThen (andThen r f) g = andThen r fun s => andThen (f s) g := by
  cases r <;> rfl

/-! ## onSlots -/

theorem onSlots_eq {s : State} (h : s.slots.length = s.cfg.maxVoices) (f : State → Result) :
    onSlots s f = f s := if_pos h

/-- A slot file of another size than MAX_VOICES faults (R246). -/
theorem onSlots_fault {s : State} (h : s.slots.length ≠ s.cfg.maxVoices) (f : State → Result) :
    onSlots s f = .fault (.indexOutOfRange .slotFile) := if_neg h

/-- Whatever visits the slots ends in a next state exactly where there are MAX_VOICES of them and it does. -/
theorem onSlots_eq_next {s t : State} {f : State → Result} :
    onSlots s f = .next t ↔ s.slots.length = s.cfg.maxVoices ∧ f s = .next t := by
  unfold onSlots; split <;> simp [*]

/-- Visiting the slots refuses only where what is done there does. -/
theorem onSlots_eq_refused {s : State} {f : State → Result} {x : Refusal} :
    onSlots s f = .refused x ↔ s.slots.length = s.cfg.maxVoices ∧ f s = .refused x := by
  unfold onSlots; split <;> simp [*]

/-! ## asr and clamp -/

/-- A gain of at most 1.0 keeps a magnitude bound through the floor shift (R207). -/
theorem asr_gain_bound {u b : Int} {g : Nat} (hg : g ≤ ONE) (hu : -b ≤ u ∧ u ≤ b) :
    -b ≤ asr (u * g) 15 ∧ asr (u * g) 15 ≤ b := by
  have hb : 0 ≤ b := by omega
  have h1 : u * g ≤ b * 32768 := by
    have : (g : Int) ≤ 32768 := by exact_mod_cast hg
    calc u * g ≤ b * g := by gcongr; exact hu.2
      _ ≤ b * 32768 := by gcongr
  have h2 : -(b * 32768) ≤ u * g := by
    have : (g : Int) ≤ 32768 := by exact_mod_cast hg
    calc -(b * 32768) ≤ -(b * g) := by gcongr
      _ = -b * g := by ring
      _ ≤ u * g := by gcongr; exact hu.1
  simp only [asr]
  omega

/-- `clamp` lands in its interval. -/
theorem clamp_mem {v lo hi : Int} (h : lo ≤ hi) : lo ≤ clamp v lo hi ∧ clamp v lo hi ≤ hi := by
  unfold clamp; split <;> [skip; split] <;> omega

/-- `clamp` leaves what already lies in its interval. -/
theorem clamp_of_mem {v lo hi : Int} (h1 : lo ≤ v) (h2 : v ≤ hi) : clamp v lo hi = v := by
  unfold clamp; split <;> [skip; split] <;> omega

/-! ## Voices of a slot file -/

@[simp] theorem voicesOf_nil : voicesOf [] = [] := rfl
@[simp] theorem voicesOf_none (l : List Slot) : voicesOf (none :: l) = voicesOf l := rfl
@[simp] theorem voicesOf_some (v : Voice) (l : List Slot) : voicesOf (some v :: l) = v :: voicesOf l := rfl

theorem mem_voicesOf {v : Voice} {l : List Slot} : v ∈ voicesOf l ↔ some v ∈ l := by
  simp [voicesOf]

@[simp] theorem voicesOf_mapVoices (f : Voice → Voice) (l : List Slot) :
    voicesOf (mapVoices f l) = (voicesOf l).map f := by
  induction l with
  | nil => rfl
  | cons a l ih => cases a <;> simpa [mapVoices] using ih

@[simp] theorem voicesOf_replicate_none (n : Nat) : voicesOf (List.replicate n none) = [] := by
  simp [voicesOf]

theorem voiceCount_eq (l : List Slot) : voiceCount l = (voicesOf l).length := by
  induction l with
  | nil => rfl
  | cons a l ih => cases a <;> simp_all [voiceCount]

theorem voiceCount_le (l : List Slot) : voiceCount l ≤ l.length := List.countP_le_length

@[simp] theorem mapVoices_length (f : Voice → Voice) (l : List Slot) :
    (mapVoices f l).length = l.length := by simp [mapVoices]

@[simp] theorem mapVoices_getElem? (f : Voice → Voice) (l : List Slot) (i : Nat) :
    (mapVoices f l)[i]? = (l[i]?).map (Option.map f) := by simp [mapVoices]

@[simp] theorem mapVoices_mapVoices (f g : Voice → Voice) (l : List Slot) :
    mapVoices f (mapVoices g l) = mapVoices (f ∘ g) l := by simp [mapVoices]

@[simp] theorem voiceCount_mapVoices (f : Voice → Voice) (l : List Slot) :
    voiceCount (mapVoices f l) = voiceCount l := by simp [voiceCount_eq]

/-! ## FindKey and AllocSlot -/

/-- Where `FindKey` answers a slot, that slot holds a voice with the key, and no lower slot does. -/
theorem findKey_some {l : List Slot} {key : Key} {i : Nat} (h : findKey l key = some i) :
    ∃ v, l[i]? = some (some v) ∧ v.key = key ∧ ∀ j < i, ∀ w, l[j]? = some (some w) → w.key ≠ key := by
  obtain ⟨hi, hp, hlow⟩ := List.findIdx?_eq_some_iff_getElem.mp h
  cases hv : l[i] with
  | none => simp [hv, Slot.hasKey] at hp
  | some v =>
    refine ⟨v, by simp [List.getElem?_eq_getElem hi, hv], by simpa [hv, Slot.hasKey] using hp, ?_⟩
    intro j hj w hw heq
    have := hlow j hj
    rw [List.getElem?_eq_getElem (by omega), Option.some.injEq] at hw
    simp [hw, Slot.hasKey, heq] at this

/-- `FindKey` answers none exactly when no voice has the key. -/
theorem findKey_none {l : List Slot} {key : Key} :
    findKey l key = none ↔ ∀ v, some v ∈ l → v.key ≠ key := by
  simp only [findKey, List.findIdx?_eq_none_iff]
  constructor
  · intro h v hv heq
    simpa [Slot.hasKey, heq] using h _ hv
  · rintro h (_ | v) hx
    · rfl
    · simpa [Slot.hasKey] using h v hx

/-- Where exactly one slot holds a voice with the key, `FindKey` answers it (R179). -/
theorem findKey_of_unique {l : List Slot} {key : Key} {i : Nat} {v : Voice} (hi : l[i]? = some (some v))
    (hk : v.key = key) (hu : ∀ j w, l[j]? = some (some w) → w.key = key → j = i) :
    findKey l key = some i := by
  cases h : findKey l key with
  | none => exact absurd hk (findKey_none.mp h v (List.mem_of_getElem? hi))
  | some j =>
    obtain ⟨w, hw, hwk, -⟩ := findKey_some h
    rw [hu j w hw hwk]

/-- Where `AllocSlot` answers a slot, it is free and every lower slot is occupied. -/
theorem allocSlot_some {l : List Slot} {i : Nat} (h : allocSlot l = some i) :
    l[i]? = some none ∧ ∀ j < i, l[j]? ≠ some none := by
  obtain ⟨hi, hp, hlow⟩ := List.findIdx?_eq_some_iff_getElem.mp h
  refine ⟨by simpa [List.getElem?_eq_getElem hi] using hp, fun j hj hn => ?_⟩
  have := hlow j hj
  rw [List.getElem?_eq_getElem (by omega), Option.some.injEq] at hn
  simp [hn] at this

/-- `AllocSlot` answers none exactly when every slot is occupied. -/
theorem allocSlot_none {l : List Slot} : allocSlot l = none ↔ none ∉ l := by
  simp only [allocSlot, List.findIdx?_eq_none_iff]
  constructor
  · intro h hn
    simpa using h none hn
  · rintro h (_ | v) hx
    · exact absurd hx h
    · rfl

/-- The lowest free slot is what `AllocSlot` answers (R180). -/
theorem allocSlot_of_lowest {l : List Slot} {i : Nat} (hi : l[i]? = some none)
    (hlow : ∀ j < i, l[j]? ≠ some none) : allocSlot l = some i := by
  cases h : allocSlot l with
  | none => exact absurd (List.mem_of_getElem? hi) (allocSlot_none.mp h)
  | some j =>
    obtain ⟨hj, hjlow⟩ := allocSlot_some h
    congr 1
    by_contra hne
    rcases Nat.lt_or_gt_of_ne hne with hlt | hgt
    · exact hlow j hlt hj
    · exact hjlow i hgt hi

end Sys2Proof.Machine
end

