-- ==== Sys2Proof/Laws/Envelope.lean ====
section
/-! SUPPORT. What the envelope operations leave alone, and the range of what they write. -/

namespace Sys2Proof.Machine

/-! ## Frames: an envelope operation touches the envelope fields only (R102, R103, R104) -/

@[simp] theorem update_key (c : Config) (t : Ticks) (v : Voice) : (v.update c t).key = v.key := by
  unfold Voice.update Voice.updateAttack Voice.updateDecay Voice.updateSustain Voice.updateRelease
    Voice.updateFinished
  repeat' split
  all_goals rfl

@[simp] theorem update_ftwBase (c : Config) (t : Ticks) (v : Voice) : (v.update c t).ftwBase = v.ftwBase := by
  unfold Voice.update Voice.updateAttack Voice.updateDecay Voice.updateSustain Voice.updateRelease
    Voice.updateFinished
  repeat' split
  all_goals rfl

@[simp] theorem update_oscs (c : Config) (t : Ticks) (v : Voice) : (v.update c t).oscs = v.oscs := by
  unfold Voice.update Voice.updateAttack Voice.updateDecay Voice.updateSustain Voice.updateRelease
    Voice.updateFinished
  repeat' split
  all_goals rfl

@[simp] theorem update_r0 (c : Config) (t : Ticks) (v : Voice) : (v.update c t).r0 = v.r0 := by
  unfold Voice.update Voice.updateAttack Voice.updateDecay Voice.updateSustain Voice.updateRelease
    Voice.updateFinished
  repeat' split
  all_goals rfl

@[simp] theorem triggerRelease_key (t : Ticks) (v : Voice) : (v.triggerRelease t).key = v.key := by
  unfold Voice.triggerRelease; split <;> rfl

@[simp] theorem triggerRelease_ftwBase (t : Ticks) (v : Voice) :
    (v.triggerRelease t).ftwBase = v.ftwBase := by
  unfold Voice.triggerRelease; split <;> rfl

@[simp] theorem triggerRelease_oscs (t : Ticks) (v : Voice) : (v.triggerRelease t).oscs = v.oscs := by
  unfold Voice.triggerRelease; split <;> rfl

@[simp] theorem triggerRelease_amp (t : Ticks) (v : Voice) : (v.triggerRelease t).amp = v.amp := by
  unfold Voice.triggerRelease; split <;> rfl

/-- What trigger_release can do to a voice (R103): nothing, in Release and Finished, or enter Release. -/
theorem triggerRelease_cases (t : Ticks) (v : Voice) :
    ((v.stage = .release ∨ v.stage = .finished) ∧ v.triggerRelease t = v) ∨
    (v.stage ≠ .release ∧ v.stage ≠ .finished ∧
      v.triggerRelease t = { v with r0 := v.amp, stage := .release, start := t }) := by
  unfold Voice.triggerRelease
  cases h : v.stage <;> simp

/-! ## Ranges -/

@[simp] theorem toGain_toNat {a : Nat} (h : a ≤ ONE) : (toGain a).toNat = a := by
  have : ONE = 32768 := rfl
  simp only [toGain, BitVec.toNat_ofNat]
  omega

theorem attackAmp_le (atk e : Nat) : attackAmp atk e ≤ ONE := Nat.min_le_left _ _

theorem decayAmp_le {sus : Nat} (dec e : Nat) (h : sus ≤ ONE) : decayAmp dec sus e ≤ ONE :=
  max_le h (Nat.sub_le _ _)

theorem releaseAmp_le (rel r0 e : Nat) : releaseAmp rel r0 e ≤ r0 := by
  unfold releaseAmp
  rcases Nat.eq_zero_or_pos rel with h | h
  · simp [h]
  · calc r0 * (rel - e) / rel ≤ r0 * rel / rel := by gcongr; omega
      _ = r0 := Nat.mul_div_cancel _ h

end Sys2Proof.Machine
end

