-- ==== Sys2Proof/Laws/Nco.lean ====
section
/-! SUPPORT. The oscillator bank: its length and entries, retuning, and the phase advance. -/

namespace Sys2Proof.Machine

@[simp] theorem tuneBank_length (n : Nat) (nsamp b : Word) (d : Detune) :
    (tuneBank n nsamp b d).length = n := by simp [tuneBank]

/-- Oscillator `i` of a tuned bank (R153, R157). -/
theorem tuneBank_getElem? {n i : Nat} (nsamp b : Word) (d : Detune) (h : i < n) :
    (tuneBank n nsamp b d)[i]? =
      some { ftw := detunedFtw n b d i, phase := nsamp * detunedFtw n b d i } := by
  simp [tuneBank, h, tuneOsc]

/-- Retuning replaces the bank and nothing else (R174). -/
@[simp] theorem retune_retune (n n' : Nat) (x x' : Word) (d d' : Detune) (v : Voice) :
    (v.retune n x d).retune n' x' d' = v.retune n' x' d' := rfl

/-- A phase advance moves a tuned bank to the next value of NSAMP (R155, R156). -/
theorem tuneBank_advance (n : Nat) (nsamp b : Word) (d : Detune) :
    (tuneBank n nsamp b d).map Osc.advance = tuneBank n (nsamp + 1) b d := by
  simp only [tuneBank, List.map_map]
  apply List.map_congr_left
  intro i _
  simp only [Function.comp_apply, tuneOsc, Osc.advance, Osc.mk.injEq, true_and]
  rw [BitVec.add_mul]
  congr 1
  exact (BitVec.one_mul _).symm

@[simp] theorem advance_key (v : Voice) : v.advance.key = v.key := rfl
@[simp] theorem advance_ftwBase (v : Voice) : v.advance.ftwBase = v.ftwBase := rfl
@[simp] theorem advance_stage (v : Voice) : v.advance.stage = v.stage := rfl
@[simp] theorem advance_start (v : Voice) : v.advance.start = v.start := rfl
@[simp] theorem advance_amp (v : Voice) : v.advance.amp = v.amp := rfl
@[simp] theorem advance_r0 (v : Voice) : v.advance.r0 = v.r0 := rfl

end Sys2Proof.Machine
end

