-- ==== Sys2Proof/Laws/Decode.lean ====
section
/-! SUPPORT. Bit fields as Nat arithmetic, and what the decoder and the encoder do on each opcode. -/

namespace Sys2Proof

theorem bits_lt {n : Nat} (v : BitVec n) (hi lo : Nat) : bits v hi lo < 2 ^ (hi - lo + 1) :=
  Nat.mod_lt _ (Nat.two_pow_pos _)

/-- The opcode field, by division. -/
theorem bits_op (w : Word) : bits w 31 28 = w.toNat / 2 ^ 28 := by
  have := w.isLt
  simp only [bits]
  omega

theorem bits_op_lt (w : Word) : bits w 31 28 < 16 := bits_lt w 31 28

/-- `sext_17` undoes the encoder's reduction mod 2^17 (R85). -/
theorem sext_emod {v : Int} (h1 : -65536 ≤ v) (h2 : v ≤ 65535) : sext 17 (v % 2 ^ 17).toNat = v := by
  unfold sext; split <;> omega

/-- `sext_N` of an N-bit field lies in the signed range. -/
theorem sext16_bounds {v : Nat} (h : v < 2 ^ 16) : -32768 ≤ sext 16 v ∧ sext 16 v ≤ 32767 := by
  unfold sext; split <;> omega

theorem sext17_bounds {v : Nat} (h : v < 2 ^ 17) : -65536 ≤ sext 17 v ∧ sext 17 v ≤ 65535 := by
  unfold sext; split <;> omega

/-- The fields of a word the assembler put together. -/
theorem toNat_assembleWord {op x : Nat} (hop : op < 16) (hx : x < 2 ^ 28) :
    (assembleWord op x).toNat = op * 2 ^ 28 + x := by
  simp only [assembleWord, BitVec.toNat_ofNat]
  omega

theorem bits_assembleWord_op {op x : Nat} (hop : op < 16) (hx : x < 2 ^ 28) :
    bits (assembleWord op x) 31 28 = op := by
  rw [bits_op, toNat_assembleWord hop hx]
  omega

theorem bits_assembleWord_low {op x hi lo : Nat} (hop : op < 16) (hx : x < 2 ^ 28) (h : hi < 28)
    (hlo : lo ≤ hi) : bits (assembleWord op x) hi lo = x / 2 ^ lo % 2 ^ (hi - lo + 1) := by
  rw [bits, toNat_assembleWord hop hx]
  have hsplit : op * 2 ^ 28 = op * 2 ^ (27 - hi) * 2 ^ (hi - lo + 1) * 2 ^ lo := by
    rw [mul_assoc, mul_assoc, ← pow_add, ← pow_add]
    congr 2; omega
  rw [hsplit, Nat.add_comm, Nat.add_mul_div_right _ _ (Nat.two_pow_pos _),
    Nat.add_mul_mod_self_right]

/-- A wrapper's four bytes give the word back (R62). -/
theorem wordOfBytes_bytesOfWord (w : Word) (rest : List Byte) :
    wordOfBytes (bytesOfWord w ++ rest) = .ok (w, rest) := by
  have := w.isLt
  simp only [bytesOfWord, List.cons_append, List.nil_append, wordOfBytes, bits, BitVec.toNat_ofNat]
  congr 2
  apply BitVec.eq_of_toNat_eq
  rw [BitVec.toNat_ofNat]
  omega

/-- Decoding the bytes of a word is decoding the word. -/
theorem decode_bytesOfWord (w : Word) (rest : List Byte) :
    decode (bytesOfWord w ++ rest) = .ok (decodeWord w, rest) := by
  simp [decode, wordOfBytes_bytesOfWord]

end Sys2Proof
end

