-- ==== Sys2Proof/Laws/Waveform.lean ====
section
/-! SUPPORT. The ranges of the ROMs, and what a noise evaluation steps. -/

namespace Sys2Proof.Machine

/-! ## ROM ranges -/

theorem sineTable_le : ∀ x ∈ sineTable, x ≤ 32767 := by decide +kernel

/-- Every entry of the sine ROM is in 0..32767 (R61, R132). -/
theorem sineQ_bounds (j : Fin 257) : 0 ≤ sineQ j ∧ sineQ j ≤ 32767 := by
  have := sineTable_le _ (List.get_mem sineTable (j.cast sineTable_length.symm))
  unfold sineQ
  omega

theorem rsqrtRows_le : ∀ x ∈ rsqrtRows.flatten, x ≤ ONE := by decide

/-- Every entry of the reciprocal-square-root ROM is a gain (R206). -/
theorem rsqrt_le {k g : Nat} (h : rsqrt k = some g) : g ≤ ONE := by
  unfold rsqrt at h
  split at h
  · simp at h
  · exact rsqrtRows_le g (List.mem_of_getElem? h)

/-- RSQRT has an entry exactly for 1..64 (R206). -/
theorem rsqrt_isSome (k : Nat) : (rsqrt k).isSome = decide (1 ≤ k ∧ k ≤ 64) := by
  have hlen : rsqrtRows.flatten.length = 64 := rfl
  unfold rsqrt
  split
  · simp [*]
  · by_cases h : k - 1 < rsqrtRows.flatten.length
    · rw [List.getElem?_eq_getElem h]
      simp; omega
    · rw [List.getElem?_eq_none (by omega)]
      simp; omega

/-- Whatever a lookup of the tuning ROM finds was asked at a legal rate and a pitch class (R151). -/
theorem noteFtw_some {rate oct note : Nat} {b : Word} (h : noteFtw rate oct note = some b) :
    rate = 44100 ∨ rate = 48000 := by
  by_contra hn
  push Not at hn
  simp [noteFtw, noteFtwTable, hn.1, hn.2] at h

theorem noteFtw_cells : ∀ rate ∈ [44100, 48000], ∀ oct < 9, ∀ note < 12, (noteFtw rate oct note).isSome := by
  decide

/-- The tuning ROM has an entry for every resolvable pitch class at either legal rate (R151). -/
theorem noteFtw_isSome {rate oct note : Nat} (hr : rate = 44100 ∨ rate = 48000) (ho : oct ≤ 8)
    (hn : note ≤ 11) : ∃ b, noteFtw rate oct note = some b :=
  Option.isSome_iff_exists.mp
    (noteFtw_cells rate (by simpa using hr) oct (by omega) note (by omega))

/-! ## The noise source -/

/-- The register after a step, in its two cases (R137). -/
theorem lfsrStep_cases (r : Word) :
    (bits r 0 0 = 1 ∧ lfsrStep r = (r >>> 1) ^^^ 0x80200003) ∨ (bits r 0 0 = 0 ∧ lfsrStep r = r >>> 1) := by
  have hb := bits_lt r 0 0
  unfold lfsrStep
  by_cases h : bits r 0 0 = 1
  · exact .inl ⟨h, by simp [h]⟩
  · exact .inr ⟨by omega, by simp [h]⟩

/-- The noise source after one WhiteNoise evaluation (R137). -/
def Noise.next (m : NoiseModel) (n : Noise) : Noise := (waveNoise m n).2

/-- `k` evaluations with the LFSR step the register `k` times and draw nothing. -/
theorem next_lfsr (k : Nat) (n : Noise) :
    (Noise.next .lfsr)^[k] n = { n with lfsr := lfsrStep^[k] n.lfsr } := by
  induction k generalizing n with
  | zero => rfl
  | succ k ih => rw [Function.iterate_succ_apply, ih]; rfl

/-- `k` evaluations with the free draw take `k` draws and leave the register. -/
theorem next_draw (k : Nat) (n : Noise) :
    (Noise.next .draw)^[k] n = { n with draws := n.draws + k } := by
  induction k generalizing n with
  | zero => rfl
  | succ k ih =>
    rw [Function.iterate_succ_apply, ih]
    simp only [Noise.next, waveNoise, Noise.mk.injEq, true_and]
    omega

/-- Only WhiteNoise touches the noise source (R137). -/
theorem waveGen_noise {m : NoiseModel} {kind : WaveKind} (h : kind ≠ .whiteNoise) (ph : Word) (n : Noise) :
    (waveGen m kind ph n).2 = n := by
  cases kind <;> simp_all [waveGen]

/-- The value of a kind other than WhiteNoise does not depend on the noise source (R130). -/
theorem waveGen_value {m : NoiseModel} {kind : WaveKind} (h : kind ≠ .whiteNoise) (ph : Word) (n n' : Noise) :
    (waveGen m kind ph n).1 = (waveGen m kind ph n').1 := by
  cases kind <;> simp_all [waveGen]

end Sys2Proof.Machine
end

