-- ==== Sys2Proof/Laws/Commands.lean ====
section
/-! SUPPORT. What each command can do, as one case analysis a command, and its plain completion where it has
one case only. -/

namespace Sys2Proof.Machine

@[simp] theorem exec_nop (s : State) : exec .nop s = .next s := rfl
@[simp] theorem exec_toggleWave (s : State) : exec .toggleWave s = .next (s.setWave s.wave.succ) := rfl
@[simp] theorem exec_setVolume (v : Int) (s : State) :
    exec (.setVolume v) s = .next (s.setVolume (clampVolume v)) := rfl
@[simp] theorem exec_clrStatus (s : State) : exec .clrStatus s = .next s.clearFlags := rfl
@[simp] theorem exec_illegal7 (s : State) : exec .illegal7 s = .next (s.setFlag .errIllegal) := rfl
@[simp] theorem exec_illegalHigh (s : State) : exec .illegalHigh s = .next (s.setFlag .errIllegal) := rfl

/-- SET_DETUNE of a slot file of MAX_VOICES slots (R174). -/
theorem exec_setDetune {s : State} (h : s.slots.length = s.cfg.maxVoices) (d : Nat) :
    exec (.setDetune d) s = .next ((s.setDetune (clampDetune d)).setSlots
      (mapVoices (Voice.retune s.cfg.numOsc s.nsamp (clampDetune d)) s.slots)) :=
  onSlots_eq h (retuneSlots d)

/-- What SET_DETUNE can do (R174): retune every voice. -/
theorem execSetDetune_cases {d : Nat} {s t : State} (h : exec (.setDetune d) s = .next t) :
    s.slots.length = s.cfg.maxVoices ∧ t = (s.setDetune (clampDetune d)).setSlots
      (mapVoices (Voice.retune s.cfg.numOsc s.nsamp (clampDetune d)) s.slots) := by
  obtain ⟨hl, ht⟩ := (onSlots_eq_next (f := retuneSlots d)).mp h
  exact ⟨hl, (Host.Outcome.next.inj ht).symm⟩

/-- What NOTE_ON can do, where it answers a next state (R172): nothing, for an unresolvable pitch class or
an active key; set ERR_FULL, with every slot occupied; or start a voice in the lowest free slot. -/
theorem execNoteOn_cases {key : Key} {note oct : Nat} {s t : State} (h : exec (.noteOn key note oct) s = .next t) :
    (resolvable note oct = false ∧ t = s) ∨
    s.slots.length = s.cfg.maxVoices ∧ (((∃ i, findKey s.slots key = some i) ∧ t = s) ∨
    (resolvable note oct = true ∧ findKey s.slots key = none ∧ allocSlot s.slots = none
      ∧ t = s.setFlag .errFull) ∨
    (∃ i base, resolvable note oct = true ∧ findKey s.slots key = none ∧ allocSlot s.slots = some i
      ∧ noteFtw s.cfg.sampleRate oct note = some base
      ∧ t = s.setSlots (s.slots.set i (some (newVoice s key base))))) := by
  simp only [exec, execNoteOn] at h
  cases hr : resolvable note oct with
  | false => simp [hr] at h; exact .inl ⟨rfl, h.symm⟩
  | true =>
    simp only [hr, Bool.not_true, Bool.false_eq_true, if_false, onSlots_eq_next] at h
    obtain ⟨hl, h⟩ := h
    refine .inr ⟨hl, ?_⟩
    simp only [noteOnSlots] at h
    cases hk : findKey s.slots key with
    | some i => simp [hk] at h; exact .inl ⟨⟨i, rfl⟩, h.symm⟩
    | none =>
      cases ha : allocSlot s.slots with
      | none => simp [hk, ha] at h; exact .inr (.inl ⟨rfl, rfl, rfl, h.symm⟩)
      | some i =>
        simp only [hk, ha, startVoice] at h
        cases hb : noteFtw s.cfg.sampleRate oct note with
        | none => simp [hb] at h
        | some base =>
          simp only [hb, Host.Outcome.next.injEq] at h
          exact .inr (.inr ⟨i, base, rfl, rfl, rfl, rfl, h.symm⟩)

/-- What NOTE_OFF can do (R173): nothing, for an inactive key; or release the key's voice. -/
theorem execNoteOff_cases {key : Key} {s t : State} (h : exec (.noteOff key) s = .next t) :
    s.slots.length = s.cfg.maxVoices ∧ ((findKey s.slots key = none ∧ t = s) ∨
    (∃ i, findKey s.slots key = some i
      ∧ t = s.setSlots (modifyVoice s.slots i (Voice.triggerRelease s.now)))) := by
  obtain ⟨hl, h⟩ := onSlots_eq_next.mp h
  refine ⟨hl, ?_⟩
  simp only [noteOffSlots] at h
  cases hk : findKey s.slots key with
  | none => simp [hk] at h; exact .inl ⟨rfl, h.symm⟩
  | some i => simp [hk] at h; exact .inr ⟨i, rfl, h.symm⟩

/-- No command refuses. -/
theorem exec_ne_refused (i : Instr) (s : State) (x : Refusal) : exec i s ≠ .refused x := by
  cases i <;> simp [exec, execNop, execNoteOff, execSetDetune, execToggleWave, execSetVolume, execClrStatus,
    execIllegal7, execIllegalHigh, onSlots_eq_refused, retuneSlots]
  · unfold execNoteOn
    split
    · simp
    · rw [onSlots_eq_refused]
      unfold noteOnSlots startVoice
      repeat' split
      all_goals simp
  · intro _
    unfold noteOffSlots
    split <;> simp

/-! ## The slots `modifyVoice` leaves -/

theorem modifyVoice_getElem? (l : List Slot) (i j : Nat) (f : Voice → Voice) :
    (modifyVoice l i f)[j]? = if i = j then (l[j]?).map (Option.map f) else l[j]? := by
  simp [modifyVoice, List.getElem?_modify]
  split <;> simp

/-- Modifying the voice of an occupied slot is setting that slot. -/
theorem modifyVoice_eq_set {l : List Slot} {i : Nat} {v : Voice} (h : l[i]? = some (some v))
    (f : Voice → Voice) : modifyVoice l i f = l.set i (some (f v)) := by
  obtain ⟨hlt, hv⟩ := List.getElem?_eq_some_iff.mp h
  simp only [modifyVoice, List.modify_eq_set_getElem?, h]
  rfl

@[simp] theorem modifyVoice_length (l : List Slot) (i : Nat) (f : Voice → Voice) :
    (modifyVoice l i f).length = l.length := by simp [modifyVoice]

/-- The voices after a free slot is given one: the new voice, and those there were (R172). -/
theorem voicesOf_set_free {l : List Slot} {i : Nat} (v : Voice) (h : l[i]? = some none) :
    (voicesOf (l.set i (some v))).Perm (v :: voicesOf l) := by
  induction l generalizing i with
  | nil => simp at h
  | cons a l ih =>
    cases i with
    | zero => simp only [List.getElem?_cons_zero, Option.some.injEq] at h; subst h; simp
    | succ i =>
      simp only [List.getElem?_cons_succ] at h
      cases a with
      | none => simpa using ih h
      | some w => simpa using ((ih h).cons w).trans (List.Perm.swap _ _ _)

/-- A voice after one slot's voice is modified was there before, or is the modified one. -/
theorem mem_modifyVoice {l : List Slot} {i : Nat} {f : Voice → Voice} {v : Voice}
    (h : v ∈ voicesOf (modifyVoice l i f)) : v ∈ voicesOf l ∨ ∃ w ∈ voicesOf l, v = f w := by
  obtain ⟨j, hj⟩ := List.mem_iff_getElem?.mp (mem_voicesOf.mp h)
  rw [modifyVoice_getElem?] at hj
  split at hj
  · match hl : l[j]? with
    | none => simp [hl] at hj
    | some none => simp [hl] at hj
    | some (some w) =>
      rw [hl] at hj
      simp only [Option.map_some, Option.some.injEq] at hj
      exact .inr ⟨w, mem_voicesOf.mpr (List.mem_of_getElem? hl), hj.symm⟩
  · exact .inl (mem_voicesOf.mpr (List.mem_of_getElem? hj))

/-- Modifying a voice without its key leaves the keys as they are. -/
theorem keys_modifyVoice {f : Voice → Voice} (hf : ∀ v, (f v).key = v.key) (l : List Slot) (i : Nat) :
    (voicesOf (modifyVoice l i f)).map Voice.key = (voicesOf l).map Voice.key := by
  induction l generalizing i with
  | nil => simp [modifyVoice]
  | cons a l ih =>
    cases i with
    | zero => cases a <;> simp [modifyVoice, hf]
    | succ i => cases a <;> simpa [modifyVoice] using ih i

/-! ## The ranges of the clamped operands -/

theorem clampDetune_le (d : Nat) : (clampDetune d).toNat ≤ 65536 := by
  simp only [clampDetune, BitVec.toNat_ofNat]; omega

theorem clampVolume_le (v : Int) : (clampVolume v).toNat ≤ ONE := by
  have hc := clamp_mem (v := v) (lo := 0) (hi := 32768) (by norm_num)
  have h1 : ONE = 32768 := rfl
  simp only [clampVolume, BitVec.toNat_ofInt]
  omega

end Sys2Proof.Machine
end

