-- ==== Sys2Proof/Laws/Memory.lean ====
section
/-! SUPPORT. The block buffer: the laws of a read after a write, and that every operation keeps its form. -/

namespace Sys2Proof.Machine

/-- The form holds at reset. -/
theorem reset_buf_wf : Memory.wf State.reset.buf = true := rfl

/-- A block of 256 samples has the form. -/
theorem block_wf {b : List Sample} (h : b.length = BLOCK) : Memory.wf b = true := by
  simp [Memory.wf, h]

/-- Loading a block of 256 samples keeps the form. -/
theorem loadBlock_wf (s : State) {b : List Sample} (h : b.length = BLOCK) :
    Memory.wf (s.loadBlock b).buf = true := by simpa using block_wf h

/-- Serving a sample keeps the form. -/
theorem deliver_wf (s : State) (x : Sample) : Memory.wf (s.deliver x).buf = Memory.wf s.buf := rfl

/-- Reset keeps the form. -/
theorem resetBlock_wf (s : State) : Memory.wf s.resetBlock.buf = true := rfl

/-- A written entry reads as what was written. -/
theorem bufRead_written {s : State} {i : Nat} {x : Sample} (hi : i < BLOCK) (h : s.buf[i]? = some x) :
    s.bufRead i = some x := by simp [State.bufRead, hi, h]

/-- Where no entry has been written since reset, each reads as its free value (R32, I6). -/
theorem bufRead_unwritten {s : State} {i : Nat} (hi : i < BLOCK) (h : s.buf = []) :
    s.bufRead i = some (Config.bufAtReset s.resets i) := by simp [State.bufRead, hi, h]

/-- There is no entry beyond the 256 (R61). -/
theorem bufRead_outside {s : State} {i : Nat} (hi : BLOCK ≤ i) : s.bufRead i = none :=
  if_neg (Nat.not_lt.mpr hi)

/-- A read of a buffer of 256 written entries is a read of the list. -/
theorem bufRead_full {s : State} (h : s.buf.length = BLOCK) (i : Nat) : s.bufRead i = s.buf[i]? := by
  by_cases hi : i < BLOCK
  · rw [List.getElem?_eq_getElem (by omega)]
    exact bufRead_written hi (List.getElem?_eq_getElem (by omega))
  · rw [bufRead_outside (by omega), List.getElem?_eq_none (by omega)]

/-- After a block is loaded, entry `i` reads as its sample `i`. -/
theorem bufRead_loadBlock (s : State) {b : List Sample} (h : b.length = BLOCK) (i : Nat) :
    (s.loadBlock b).bufRead i = b[i]? := bufRead_full h i

/-- Serving a sample leaves every entry as it was. -/
theorem bufRead_deliver (s : State) (x : Sample) (i : Nat) : (s.deliver x).bufRead i = s.bufRead i := rfl

/-- Counting a clock edge leaves every entry as it was. -/
theorem bufRead_countEdge (s : State) (i : Nat) : s.countEdge.bufRead i = s.bufRead i := rfl

/-- A read gives a value exactly at the 256 entries, written or not. -/
theorem bufRead_isSome (s : State) (i : Nat) : (s.bufRead i).isSome = decide (i < BLOCK) := by
  by_cases h : i < BLOCK <;> simp [State.bufRead, h]

end Sys2Proof.Machine
end

