-- ==== Sys2Proof/Laws/Mixer.lean ====
section
/-! SUPPORT. What the mix does with the noise source, and with slots that are not in the mix set. -/

namespace Sys2Proof.Machine

/-- But for WhiteNoise, an oscillator sum neither reads nor moves the noise source (R130, R137). -/
theorem oscSum_shaped (m : NoiseModel) {kind : WaveKind} (hk : kind ≠ .whiteNoise) (os : List Osc)
    (n n' : Noise) :
    (oscSum m kind os n).1 = (oscSum m kind os n').1 ∧ (oscSum m kind os n).2 = n := by
  induction os generalizing n n' with
  | nil => exact ⟨rfl, rfl⟩
  | cons o os ih =>
    simp only [oscSum, waveGen_noise hk, waveGen_value hk o.phase n n']
    exact ⟨by rw [(ih n n').1], (ih n n').2⟩

/-- But for WhiteNoise, a mix neither reads nor moves the noise source. -/
theorem mixSum_shaped {x : MixContext} (hk : x.kind ≠ .whiteNoise) (l : List Slot) (n n' : Noise) :
    (mixSum x l n).1 = (mixSum x l n').1 ∧ (mixSum x l n).2 = n := by
  induction l generalizing n n' with
  | nil => exact ⟨rfl, rfl⟩
  | cons a l ih =>
    cases a with
    | none => exact ih n n'
    | some v =>
      simp only [mixSum]
      split
      · exact ih n n'
      · simp only [voiceSample, (oscSum_shaped x.noiseModel hk v.oscs n n').1,
          (oscSum_shaped x.noiseModel hk v.oscs n n').2, (oscSum_shaped x.noiseModel hk v.oscs n' n').2]
        exact ⟨by rw [(ih n n').1], (ih n n').2⟩

/-- A WhiteNoise oscillator sum makes one evaluation an oscillator (R137). -/
theorem oscSum_noise (m : NoiseModel) (os : List Osc) (n : Noise) :
    (oscSum m .whiteNoise os n).2 = (Noise.next m)^[os.length] n := by
  induction os generalizing n with
  | nil => rfl
  | cons o os ih => rw [oscSum, ih, List.length_cons, Function.iterate_succ_apply]; rfl

/-- A WhiteNoise mix of banks of `k` makes `k` evaluations for each voice that is not Finished (R137). -/
theorem mixSum_noise {x : MixContext} (hx : x.kind = .whiteNoise) {k : Nat} (l : List Slot) (n : Noise)
    (hk : ∀ v, some v ∈ l → v.oscs.length = k) :
    (mixSum x l n).2 =
      (Noise.next x.noiseModel)^[(voicesOf l).countP (fun v => v.stage != .finished) * k] n := by
  induction l generalizing n with
  | nil => simp [mixSum]
  | cons a l ih =>
    have ih := fun n => ih n fun v hv => hk v (List.mem_cons_of_mem _ hv)
    cases a with
    | none => exact ih n
    | some v =>
      simp only [mixSum, voicesOf_some, List.countP_cons]
      by_cases hf : v.stage = .finished
      · simp [Voice.isFinished, hf, ih]
      · simp only [Voice.isFinished, beq_iff_eq, hf, if_false, bne_iff_ne, ne_eq, not_false_eq_true, if_true,
          ih, voiceSample, hx, oscSum_noise, hk v (List.mem_cons_self ..)]
        rw [Nat.add_mul, Nat.one_mul, Function.iterate_add_apply]

/-- A mix in two parts: the second starts from the noise source the first left (R201). -/
theorem mixSum_append (x : MixContext) (a b : List Slot) (n : Noise) :
    mixSum x (a ++ b) n =
      ((mixSum x a n).1 + (mixSum x b (mixSum x a n).2).1, (mixSum x b (mixSum x a n).2).2) := by
  induction a generalizing n with
  | nil => simp [mixSum]
  | cons s a ih =>
    cases s with
    | none => exact ih n
    | some v =>
      simp only [List.cons_append, mixSum]
      split
      · exact ih n
      · simp [ih, Int.add_assoc]

/-- A slot file whose voices are all Finished mixes to 0 and evaluates no oscillator (R225). -/
theorem mixSum_finished (x : MixContext) (l : List Slot) (n : Noise)
    (h : ∀ v, some v ∈ l → v.stage = .finished) : mixSum x l n = (0, n) := by
  induction l with
  | nil => rfl
  | cons a l ih =>
    cases a with
    | none => exact ih fun v hv => h v (by simp [hv])
    | some v =>
      simp only [mixSum]
      rw [if_pos (by simp [Voice.isFinished, h v (by simp)])]
      exact ih fun v hv => h v (by simp [hv])

/-- The output sample as a number is the soft clip of the scaled mix: 16 bits hold it (R205). -/
theorem mixSample_toInt (x : MixContext) (slots : List Slot) (n : Noise) :
    (mixSample x slots n).1.toInt = softClip (polyScale x.gainV (mixSum x slots n).1) := by
  have hc := clamp_mem (v := polyScale x.gainV (mixSum x slots n).1) (lo := -31130) (hi := 31130) (by omega)
  simp only [mixSample]
  rw [BitVec.toInt_ofInt]
  simp only [softClip, CLIP_LEVEL]
  apply Int.bmod_eq_of_le <;> omega

end Sys2Proof.Machine
end

