-- ==== Sys2Proof/Laws/PerInstr.lean ====
section
/-! SUPPORT. Per-instruction families: one statement about every constructor of Instr, one lemma each. -/

namespace Sys2Proof.Laws.Opcode

/-- The encoder puts the opcode of an instruction's table row in bits 31:28 (R80, R81), whatever its
operands. -/
def Statement (i : Instr) : Prop := i.wellFormed = true → bits (encode i) 31 28 = i.rowIndex

theorem nop : Statement .nop := fun _ => rfl

theorem noteOn (key : Key) (note oct : Nat) : Statement (.noteOn key note oct) := by
  intro h
  have hk := key.isLt
  simp only [Instr.wellFormed, Bool.and_eq_true, decide_eq_true_eq] at h
  exact bits_assembleWord_op (by omega) (by omega)

theorem noteOff (key : Key) : Statement (.noteOff key) := by
  intro _
  have hk := key.isLt
  exact bits_assembleWord_op (by omega) (by omega)

theorem setDetune (d : Nat) : Statement (.setDetune d) := by
  intro h
  simp only [Instr.wellFormed, decide_eq_true_eq] at h
  exact bits_assembleWord_op (by omega) (by omega)

theorem toggleWave : Statement .toggleWave := fun _ => rfl

theorem setVolume (v : Int) : Statement (.setVolume v) := by
  intro _
  exact bits_assembleWord_op (by omega) (by omega)

theorem clrStatus : Statement .clrStatus := fun _ => rfl

theorem illegal7 : Statement .illegal7 := fun _ => rfl

theorem illegalHigh : Statement .illegalHigh := fun _ => rfl

end Sys2Proof.Laws.Opcode
end

