-- ==== Sys2Proof/Laws/Render.lean ====
section
/-! SUPPORT. What the sample loop, the render pass and the pull do, said once each. -/

namespace Sys2Proof.Machine

/-! ## The sample loop -/

@[simp] theorem sampleLoop_zero (x : MixContext) (p : PassState) : sampleLoop x 0 p = ([], p) := rfl

theorem sampleLoop_succ (x : MixContext) (k : Nat) (p : PassState) :
    sampleLoop x (k + 1) p =
      ((sampleStep x p).1 :: (sampleLoop x k (sampleStep x p).2).1, (sampleLoop x k (sampleStep x p).2).2) := rfl

/-- The loop makes one sample a round (R226). -/
@[simp] theorem sampleLoop_length (x : MixContext) (k : Nat) (p : PassState) :
    (sampleLoop x k p).1.length = k := by
  induction k generalizing p with
  | zero => rfl
  | succ k ih => simp [sampleLoop_succ, ih]

/-- The loop advances NSAMP by one a round (R227). -/
theorem sampleLoop_nsamp (x : MixContext) (k : Nat) (p : PassState) :
    (sampleLoop x k p).2.nsamp = p.nsamp + BitVec.ofNat 32 k := by
  induction k generalizing p with
  | zero => simp
  | succ k ih =>
    rw [sampleLoop_succ, ih]
    simp only [sampleStep]
    rw [Nat.add_comm k 1, BitVec.ofNat_add, BitVec.add_assoc]
    rfl

/-- The loop advances the phases of every voice once a round, and changes nothing else in the slots
(R227). -/
theorem sampleLoop_slots (x : MixContext) (k : Nat) (p : PassState) :
    (sampleLoop x k p).2.slots = mapVoices (Voice.advance^[k]) p.slots := by
  induction k generalizing p with
  | zero => simp [mapVoices]
  | succ k ih =>
    rw [sampleLoop_succ, ih]
    simp [sampleStep, Function.iterate_succ]

/-- `k` advances of one voice add `k` tuning words to each of its phases and change nothing else (R156). -/
theorem advance_iterate (k : Nat) (v : Voice) :
    Voice.advance^[k] v =
      { v with oscs := v.oscs.map fun o => { o with phase := o.phase + BitVec.ofNat 32 k * o.ftw } } := by
  induction k generalizing v with
  | zero => simp
  | succ k ih =>
    rw [Function.iterate_succ_apply, ih]
    simp only [Voice.advance, List.map_map, Voice.mk.injEq, true_and, and_true]
    apply List.map_congr_left
    intro o _
    simp only [Function.comp, Osc.advance, Osc.mk.injEq, true_and]
    rw [Nat.add_comm, BitVec.ofNat_add, BitVec.add_mul, ← BitVec.add_assoc]
    congr 2
    exact (BitVec.one_mul _).symm

/-- Sample `j` of the loop is the mix of the slots after `j` advances, with the noise source that `j` rounds
leave (R226). -/
theorem sampleLoop_getElem? (x : MixContext) {k j : Nat} (p : PassState) (h : j < k) :
    (sampleLoop x k p).1[j]? = some
      (mixSample x (mapVoices (Voice.advance^[j]) p.slots) (sampleLoop x j p).2.noise).1 := by
  induction k generalizing j p with
  | zero => omega
  | succ k ih =>
    rw [sampleLoop_succ]
    cases j with
    | zero => simp [sampleStep, mapVoices]
    | succ j =>
      rw [List.getElem?_cons_succ, ih (sampleStep x p).2 (Nat.lt_of_succ_lt_succ h), sampleLoop_succ]
      simp [sampleStep, Function.iterate_succ]

/-- The noise source after `k` rounds with WhiteNoise: one evaluation for each oscillator of each voice that is
not Finished, in each round (R137). -/
theorem sampleLoop_noise {x : MixContext} (hx : x.kind = .whiteNoise) {m : Nat} (k : Nat) (p : PassState)
    (hm : ∀ v, some v ∈ p.slots → v.oscs.length = m) :
    (sampleLoop x k p).2.noise = (Noise.next x.noiseModel)^[
      k * (voicesOf p.slots).countP (fun v => v.stage != .finished) * m] p.noise := by
  induction k generalizing p with
  | zero => simp
  | succ k ih =>
    have hm' : ∀ v, some v ∈ (sampleStep x p).2.slots → v.oscs.length = m := by
      simp only [sampleStep, ← mem_voicesOf, voicesOf_mapVoices, List.mem_map]
      rintro _ ⟨v, hv, rfl⟩
      simpa [Voice.advance] using hm v (mem_voicesOf.mp hv)
    rw [sampleLoop_succ, ih _ hm', Nat.succ_mul, Nat.add_mul, Function.iterate_add_apply]
    simp only [sampleStep, mixSample, mixSum_noise hx p.slots p.noise hm, voicesOf_mapVoices, List.countP_map]
    rfl

/-- The noise source after `k` rounds of any other waveform is what it was. -/
theorem sampleLoop_noise_shaped {x : MixContext} (hx : x.kind ≠ .whiteNoise) (k : Nat) (p : PassState) :
    (sampleLoop x k p).2.noise = p.noise := by
  induction k generalizing p with
  | zero => rfl
  | succ k ih =>
    rw [sampleLoop_succ, ih]
    exact (mixSum_shaped hx p.slots p.noise p.noise).2

/-! ## Eviction -/

/-- Eviction keeps exactly the voices that are not Finished (R228). -/
theorem mem_evict {l : List Slot} {v : Voice} :
    v ∈ voicesOf (evict l) ↔ v ∈ voicesOf l ∧ v.stage ≠ .finished := by
  simp only [mem_voicesOf, evict, List.mem_map]
  constructor
  · rintro ⟨a, ha, h⟩
    split at h
    · next hm => subst h; exact ⟨ha, by simpa [Slot.mixed, Voice.isFinished] using hm⟩
    · cases h
  · rintro ⟨h, hs⟩
    exact ⟨_, h, by simp [Slot.mixed, Voice.isFinished, hs]⟩

/-- Eviction keeps the voices' order. -/
theorem evict_sublist (l : List Slot) : (voicesOf (evict l)).Sublist (voicesOf l) := by
  induction l with
  | nil => simp [evict]
  | cons a l ih =>
    cases a with
    | none => simpa [evict, Slot.mixed] using ih
    | some v =>
      have h : evict (some v :: l) = (if Slot.mixed (some v) then some v else none) :: evict l := rfl
      rw [h]
      split
      · simpa using ih
      · simpa using ih.cons v

/-- Eviction keeps the number of slots. -/
@[simp] theorem evict_length (l : List Slot) : (evict l).length = l.length := by simp [evict]

/-! ## The mix context -/

/-- A pass finds its two gains exactly when N is in 1..64 and V at most 64 (R204, R206). -/
theorem mixContext_isSome (s : State) (slots : List Slot) (hn : 1 ≤ s.cfg.numOsc ∧ s.cfg.numOsc ≤ 64)
    (hv : voiceCount slots ≤ 64) : ∃ x, mixContext s slots = some x := by
  have h1 : (rsqrt s.cfg.numOsc).isSome := by rw [rsqrt_isSome]; simpa using hn
  have h2 : (polyGain (voiceCount slots)).isSome := by
    unfold polyGain
    split
    · rfl
    · rw [rsqrt_isSome]; simp; omega
  obtain ⟨a, ha⟩ := Option.isSome_iff_exists.mp h1
  obtain ⟨b, hb⟩ := Option.isSome_iff_exists.mp h2
  exact ⟨_, by rw [mixContext, ha, hb]⟩

/-- What a mix context holds (R225). -/
theorem mixContext_some {s : State} {slots : List Slot} {x : MixContext} (h : mixContext s slots = some x) :
    x.noiseModel = s.cfg.noise ∧ x.kind = s.wave ∧ x.volume = s.volume ∧ rsqrt s.cfg.numOsc = some x.gainN
      ∧ polyGain (voiceCount slots) = some x.gainV := by
  unfold mixContext at h
  split at h
  · next a b ha hb => cases h; exact ⟨rfl, rfl, rfl, ha, hb⟩
  · cases h

/-! ## Render pass, transfer and pull -/

/-- A pass that answers a next state found its gains, and that state is the loop's result stored (R222). -/
theorem renderPass_next {t : Ticks} {s u : State} (h : renderPass t s = .next u) :
    ∃ x, mixContext s (updatePhase s.cfg t s.slots) = some x ∧
      u = s.finishPass (sampleLoop x BLOCK (s.passStart (updatePhase s.cfg t s.slots))) := by
  have h := (onSlots_eq_next.mp h).2
  unfold renderSlots at h
  cases hx : mixContext s (updatePhase s.cfg t s.slots) with
  | none => simp [hx] at h
  | some x => exact ⟨x, rfl, by simpa [hx] using h.symm⟩

/-- All a pass can do, with the loop's result as a value of its own: 256 samples, NSAMP advanced by 256, and
every voice updated once with its phases 256 tuning words on (R222 to R227). -/
theorem renderPass_loop {t : Ticks} {s u : State} (h : renderPass t s = .next u) :
    ∃ loop, u = s.finishPass loop ∧ loop.1.length = BLOCK ∧ loop.2.nsamp = s.nsamp + BitVec.ofNat 32 BLOCK ∧
      loop.2.slots = mapVoices (fun v => { v.update s.cfg t with
        oscs := v.oscs.map fun o => { o with phase := o.phase + BitVec.ofNat 32 BLOCK * o.ftw } }) s.slots := by
  obtain ⟨x, -, rfl⟩ := renderPass_next h
  generalize BLOCK = k
  refine ⟨_, rfl, sampleLoop_length _ _ _, sampleLoop_nsamp _ _ _, ?_⟩
  rw [sampleLoop_slots, State.passStart, updatePhase, mapVoices_mapVoices]
  congr 1
  funext v
  simp [advance_iterate]

/-- A pass answers a next state wherever N is legal and there are MAX_VOICES slots, at most 64 (R246). -/
theorem renderPass_runs (t : Ticks) (s : State) (hn : 1 ≤ s.cfg.numOsc ∧ s.cfg.numOsc ≤ 64)
    (hl : s.slots.length = s.cfg.maxVoices) (hv : s.cfg.maxVoices ≤ 64) : ∃ u, renderPass t s = .next u := by
  have hc : voiceCount (updatePhase s.cfg t s.slots) ≤ 64 :=
    le_trans (voiceCount_le _) (by simpa [updatePhase, hl] using hv)
  obtain ⟨x, hx⟩ := mixContext_isSome s _ hn hc
  exact ⟨_, by rw [renderPass, onSlots_eq hl, renderSlots, hx]⟩

/-- A pass reads no entry of BUF (R32). -/
theorem renderPass_buf (t : Ticks) (s : State) (buf : List Sample) :
    renderPass t { s with buf := buf } = renderPass t s := by
  unfold renderPass onSlots
  split
  · simp only [renderSlots, mixContext]
    generalize BLOCK = k
    split <;> rfl
  · rfl

/-- A pass never refuses. -/
theorem renderPass_ne_refused (t : Ticks) (s : State) (x : Refusal) : renderPass t s ≠ .refused x := by
  rw [renderPass, Ne, onSlots_eq_refused]
  rintro ⟨-, h⟩
  unfold renderSlots at h
  split at h <;> cases h

/-- A transfer that answers a next state served the entry at CURSOR (R220). -/
theorem serve_next {s u : State} (h : serve s = .next u) :
    ∃ x, s.bufRead s.cursor.toNat = some x ∧ u = s.deliver x := by
  unfold serve at h
  cases hx : s.bufRead s.cursor.toNat with
  | none => simp [hx] at h
  | some x => exact ⟨x, rfl, by simpa [hx] using h.symm⟩

/-- A transfer serves the entry at CURSOR. -/
theorem serve_of_read {s : State} {x : Sample} (h : s.bufRead s.cursor.toNat = some x) :
    serve s = .next (s.deliver x) := by simp [serve, h]

/-- A transfer never refuses. -/
theorem serve_ne_refused (s : State) (x : Refusal) : serve s ≠ .refused x := by
  unfold serve; split <;> simp

/-- A pull of a buffered sample is a transfer alone (R220). -/
theorem pull_buffered {s : State} (h : s.cursor ≠ 256) : pull s = serve s := by
  rw [pull, if_neg h, andThen_next]

/-- A pull that finds the buffer exhausted renders, then serves entry 0 (R220, R221). -/
theorem pull_exhausted {s : State} (h : s.cursor = 256) : pull s = andThen (renderPass s.now s) serve := by
  rw [pull, if_pos h]

end Sys2Proof.Machine
end

