-- ==== Sys2Proof/Laws/Step.lean ====
section
/-! SUPPORT. What a step can do: one inversion lemma for the step, and one for each kind of event. -/

namespace Sys2Proof.Machine

/-- A step that answers a next state had a legal configuration and cursor, and took up the next event or
found none. -/
theorem step_next {s t : State} (h : step s = .next t) :
    s.cfg.Legal ∧ s.cursor.toNat ≤ 256 ∧
      ((s.agenda = [] ∧ t = s) ∨ ∃ e rest, s.agenda = e :: rest ∧ transact e (s.setAgenda rest) = .next t) := by
  simp only [step, runAgenda] at h
  split at h
  · next hl =>
    split at h
    · next hc =>
      refine ⟨hl, hc, ?_⟩
      unfold takeEvent at h
      cases ha : s.agenda with
      | nil => simp [ha] at h; exact .inl ⟨rfl, h.symm⟩
      | cons e rest => simp only [ha] at h; exact .inr ⟨e, rest, rfl, h⟩
    · cases h
  · cases h

/-- A step with a legal configuration and cursor, and an event to take up. -/
theorem step_of_event {s : State} {e : Event} {rest : List Event} (hl : s.cfg.Legal)
    (hc : s.cursor.toNat ≤ 256) (ha : s.agenda = e :: rest) : step s = transact e (s.setAgenda rest) := by
  rw [step, runAgenda, if_pos hl, if_pos hc, takeEvent, ha]

/-- An idle block does nothing. -/
theorem step_idle {s : State} (hl : s.cfg.Legal) (hc : s.cursor.toNat ≤ 256) (ha : s.agenda = []) :
    step s = .next s := by
  rw [step, runAgenda, if_pos hl, if_pos hc, takeEvent, ha]

/-- What waiting for a pass can do: nothing with BUSY = 0, and the pass with BUSY = 1. -/
theorem settle_idle {s : State} (h : s.pass = none) : settle s = .next s := by simp [settle, h]

theorem settle_busy {s : State} {p : PassInFlight} (h : s.pass = some p) : settle s = renderPass p.time s := by
  simp [settle, h]

/-- Waiting never refuses. -/
theorem settle_ne_refused (s : State) (x : Refusal) : settle s ≠ .refused x := by
  unfold settle; split
  · exact renderPass_ne_refused _ _ _
  · simp

/-- A pull never refuses. -/
theorem pull_ne_refused (s : State) (x : Refusal) : pull s ≠ .refused x := by
  unfold pull
  rw [Ne, andThen_eq_refused]
  rintro (h | ⟨_, _, h⟩)
  · split at h
    · exact renderPass_ne_refused _ _ _ h
    · cases h
  · exact serve_ne_refused _ _ h

/-! ## One clock edge -/

/-- While a sample is offered the port carries the entry at CURSOR (R92). -/
theorem outData_of_read {p : Pins} {s : State} {x : Sample} (hv : outValid p s = true)
    (h : s.bufRead s.cursor.toNat = some x) : outData p s = x := by simp [outData, hv, h]

/-- While none is, it carries the edge's free value (I7). -/
theorem outData_idle {p : Pins} {s : State} (hv : outValid p s = false) :
    outData p s = Config.outDataIdle s.edges := by simp [outData, hv]

theorem edge_reset {p : Pins} {s : State} (h : p.rst = true) : edge p s = .next s.resetBlock.countEdge := by
  simp [edge, h]

theorem edge_run {p : Pins} {s : State} (h : p.rst = false) :
    edge p s = andThen (andThen (edgeCommand p s) (edgeEngine p)) (edgeTick p) := by simp [edge, h]

/-- With a pass in progress the command port accepts nothing (R66, R91). -/
theorem edgeCommand_busy {p : Pins} {s : State} {f : PassInFlight} (h : s.pass = some f) :
    edgeCommand p s = .next s := by simp [edgeCommand, cmdReady, State.busy, h]

/-- With no word offered the command port does nothing. -/
theorem edgeCommand_none {p : Pins} (s : State) (h : p.cmdValid = false) : edgeCommand p s = .next s := by
  simp [edgeCommand, h]

/-- A word offered to a ready port is applied (R91). -/
theorem edgeCommand_accept {p : Pins} {s : State} (hv : p.cmdValid = true) (hr : p.rst = false)
    (h : s.pass = none) : edgeCommand p s = exec (decodeWord p.cmdData) s := by
  simp [edgeCommand, cmdReady, State.busy, h, hv, hr]

/-- No edge refuses. -/
theorem edge_ne_refused (p : Pins) (s : State) (x : Refusal) : edge p s ≠ .refused x := by
  unfold edge
  split
  · simp
  · simp only [Ne, andThen_eq_refused, edgeTick, reduceCtorEq, and_false, exists_false, or_false]
    rintro (h | ⟨u, _, h⟩)
    · unfold edgeCommand at h
      split at h
      · exact exec_ne_refused _ _ _ h
      · cases h
    · unfold edgeEngine at h
      split at h
      · unfold edgePass at h
        split at h
        · exact renderPass_ne_refused _ _ _ h
        · cases h
      · unfold edgeOutput at h
        repeat' split at h
        all_goals first | cases h | exact serve_ne_refused _ _ h

end Sys2Proof.Machine
end

