-- ==== Sys2Proof/Tests/Slice0.lean ====
section
/-! SUPPORT. Tests of the model, their expected results taken from the spec's own examples and vectors
(95_test_vectors.md and the rules), and one witness for each obligation that has hypotheses: a concrete state
and operands that meet them all. -/

namespace Sys2Proof.Tests

/- Each `decide +kernel` waits for every declaration before it. Elaborated one by one, the tests need no thread
(and no stack) each while they wait. -/
set_option Elab.async false

open Sys2Proof.Machine

/-! ## Small states -/

/-- Whether a result is a next state with a property. -/
def nextHas (r : Result) (p : State → Bool) : Bool :=
  match r with
  | .next t => p t
  | .fault _ | .refused _ => false

/-- Whether a result is this next state. -/
def isNext (r : Result) (t : State) : Bool := nextHas r (· == t)

/-- Whether a result is this fault. -/
def isFault (r : Result) (x : Fault) : Bool :=
  match r with
  | .fault y => y == x
  | .next _ | .refused _ => false

/-- Two slots, one oscillator, and no ramps. -/
def tinyConfig : Config := { Config.default with numOsc := 1, maxVoices := 2, attackT := 0, decayT := 0 }

/-- The block of `tinyConfig` after reset. -/
def tiny : State := State.resetWith tinyConfig

/-- A voice of `tinyConfig` on A4 in a given stage. -/
def voiceIn (stage : Stage) : Voice :=
  { key := 1, ftwBase := 42852281, oscs := [⟨42852281, 0⟩], stage := stage, start := 0, amp := 16384, r0 := 0 }

/-- `tiny` with that voice in slot 0. -/
def tinyWith (stage : Stage) : State := tiny.setSlots [some (voiceIn stage), none]

/-- `tiny` with that voice in slot 0 and a voice for key 2 in slot 1. -/
def tinyFull : State := tiny.setSlots [some (voiceIn .sustain), some { voiceIn .sustain with key := 2 }]

/-- `tiny` with a full buffer. -/
def tinyBuffered : State := tiny.loadBlock (List.replicate 256 5)

/-- A slot file of two slots where MAX_VOICES = 1: no block has one. -/
def misfit : State := { tiny with cfg := { tinyConfig with maxVoices := 1 } }

/-- `tiny` in the middle of a pass, with two edges to go. -/
def tinyBusy : State := tiny.setPass (some ⟨3, 2⟩)

/-- The input pins with nothing asked for. -/
def quiet : Pins := { rst := false, tick := false, cmdValid := false, cmdData := 0, outReady := false }

/-! ## What is refused as ill-formed -/

theorem test_note_field_bound : (Instr.noteOn 1 16 4).wellFormed = false := by decide
theorem test_oct_field_bound : (Instr.noteOn 1 9 16).wellFormed = false := by decide
theorem test_detune_field_bound : (Instr.setDetune 131072).wellFormed = false := by decide
theorem test_volume_field_upper_bound : (Instr.setVolume 65536).wellFormed = false := by decide
theorem test_volume_field_lower_bound : (Instr.setVolume (-65537)).wellFormed = false := by decide
theorem test_operand_ranges_are_full : (Instr.noteOn 255 15 15).wellFormed ∧ (Instr.setDetune 131071).wellFormed ∧
    (Instr.setVolume 65535).wellFormed ∧ (Instr.setVolume (-65536)).wellFormed := by decide

/-- R5, R6, R246: each check refuses a configuration one value outside it. -/
theorem test_configuration_bounds :
    decide Config.default.Legal = true ∧
    [ { Config.default with sampleRate := 32000 }, { Config.default with numOsc := 0 },
      { Config.default with numOsc := 9 }, { Config.default with maxVoices := 0 },
      { Config.default with maxVoices := 65 }, { Config.default with block := 128 },
      { Config.default with attackT := 2 ^ 32 }, { Config.default with decayT := 2 ^ 32 },
      { Config.default with sustainLvl := 32769 }, { Config.default with releaseT := 2 ^ 32 },
      { Config.default with tickHz := 0 }, { Config.default with resetVolume := 32769 },
      { Config.default with resetDetune := 65537 }, { Config.default with lfsrSeed := 0 },
      { Config.default with lfsrSeed := 2 ^ 32 }, { Config.default with passCycles := 0 } ].all
      (fun c => decide ¬ c.Legal) = true := by decide +kernel

theorem test_short_stream_is_refused : decode [1, 2, 3] = .error (.truncated 3) := by decide

/-! ## Decoding: the words of vector table V1, and the opcode table -/

theorem test_decode_nop : decodeWord 0x0FFFFFFF = .nop := by decide
theorem test_decode_note_on : decodeWord 0x1FFF4901 = .noteOn 1 9 4 := by decide
theorem test_decode_note_on_top : decodeWord 0x10008B01 = .noteOn 1 11 8 := by decide
theorem test_decode_note_off : decodeWord 0x20000001 = .noteOff 1 := by decide
theorem test_decode_set_detune : decodeWord 0x3001FFFF = .setDetune 131071 := by decide
theorem test_decode_toggle_wave : decodeWord 0x40000000 = .toggleWave := by decide
theorem test_decode_set_volume : decodeWord 0x5001FFFF = .setVolume (-1) := by decide
theorem test_decode_set_volume_positive : decodeWord 0x50009C40 = .setVolume 40000 := by decide
theorem test_decode_clr_status : decodeWord 0x60000000 = .clrStatus := by decide
theorem test_decode_illegal_7 : decodeWord 0x70000000 = .illegal7 := by decide
theorem test_decode_illegal_high : decodeWord 0x8ABCDEF0 = .illegalHigh ∧ decodeWord 0xFFFFFFFF = .illegalHigh := by
  decide

/-- R62: a byte-wide wrapper sends the least significant byte first. -/
theorem test_wrapper_byte_order : decode [0x01, 0x49, 0x00, 0x10, 0xAA] = .ok (.noteOn 1 9 4, [0xAA]) := by decide

/-- R89: no word belongs to two rows, because two rows differ in a bit that both of them fix. -/
theorem test_rows_do_not_overlap :
    opcodeRows.Pairwise fun a b => a.value &&& b.mask ≠ b.value &&& a.mask := by decide

theorem test_table_words : (opcodeRows.map fun r => (decodeTableWord 32 r.value.toNat).map Instr.rowIndex) =
    (List.range 9).map some := by decide +kernel

/-- The first step after reset runs the word placed for it. -/
theorem test_fetch_runs_first :
    isNext (step (State.reset.withFetchWord 32 0x50006666)) { State.reset with volume := 26214 } = true ∧
    isNext (step (State.reset.withFetchWord 32 0xFFFFFFFF)) { State.reset with errIllegal := true } = true := by
  decide +kernel

/-! ## Commands (V1, S3, S6, and the examples of 43_commands.md) -/

theorem test_nop : isNext (exec .nop (tinyWith .decay)) (tinyWith .decay) = true := by decide +kernel

/-- The example of R172. -/
theorem test_note_on_starts : nextHas (exec (.noteOn 1 9 4) State.reset) (fun t =>
    t.slots[0]? == some (some ⟨1, 42852281, List.replicate 4 ⟨42852281, 0⟩, .attack, 0, 0, 0⟩)
      && voiceCount t.slots == 1) = true := by decide +kernel

/-- S3, and P4's full slot file. -/
theorem test_note_on_active_and_full :
    isNext (exec (.noteOn 1 0 4) (tinyWith .release)) (tinyWith .release) = true ∧
    isNext (exec (.noteOn 3 0 4) tinyFull) { tinyFull with errFull := true } = true ∧
    isNext (exec (.noteOn 1 0 4) tinyFull) tinyFull = true := by decide +kernel

/-- The example of trigger_release in V2, here with AMP = 16384 at NOW = 60000. -/
theorem test_note_off_releases :
    nextHas (exec (.noteOff 1) { tinyWith .attack with now := 60000 }) (fun t =>
      t.slots == [some { voiceIn .attack with stage := .release, start := 60000, r0 := 16384 }, none]) = true := by
  decide +kernel

/-- S4. -/
theorem test_note_off_inactive : isNext (exec (.noteOff 7) State.reset) State.reset = true := by decide +kernel

/-- The example of R174, and V4's reload at NSAMP = 256. -/
theorem test_set_detune_retunes :
    nextHas (exec (.setDetune 131071) { tinyWith .release with
      cfg := { tinyConfig with numOsc := 4 }, nsamp := 256 }) (fun t =>
      t.detune == 65536 && t.slots.map (Option.map fun v => v.oscs.map Osc.ftw) ==
        [some [21426140, 35710234, 49994327, 64278421], none] &&
      t.slots.map (Option.map fun v => (v.oscs.map Osc.phase).take 1) == [some [1190124544], none]) = true := by
  decide +kernel

theorem test_toggle_wave_wraps :
    isNext (exec .toggleWave { tiny with wave := .whiteNoise }) tiny = true := by decide +kernel

theorem test_set_volume_clamps :
    isNext (exec (.setVolume (-1)) tiny) { tiny with volume := 0 } = true ∧
    isNext (exec (.setVolume 40000) { tiny with volume := 1 }) { tiny with volume := 32768 } = true := by decide +kernel

theorem test_clr_status : isNext (exec .clrStatus { tiny with errIllegal := true, errFull := true }) tiny = true := by
  decide +kernel

theorem test_illegal_sets_its_flag :
    nextHas (exec .illegal7 tiny) (fun t => t.stErr == 0b01) = true ∧
    nextHas (exec .illegalHigh { tiny with errFull := true }) (fun t => t.stErr == 0b11) = true := by decide +kernel

/-- R61, R246: a slot beyond MAX_VOICES - 1 is not written but faults. -/
theorem test_slot_file_bounds :
    [exec (.noteOn 1 9 4) misfit, exec (.noteOff 1) misfit, exec (.setDetune 0) misfit, renderPass 0 misfit].all
      (isFault · (.indexOutOfRange .slotFile)) = true ∧
    isNext (exec (.noteOn 1 12 4) misfit) misfit = true := by decide +kernel

/-- R32, R61, I6: after reset each of the 256 entries of BUF holds some value, and there is no other entry. -/
theorem test_unwritten_buffer : tiny.bufRead 0 = some (Config.bufAtReset 0 0) ∧
    tiny.bufRead 255 = some (Config.bufAtReset 0 255) ∧ tiny.bufRead 256 = none ∧
    tinyBuffered.resetBlock.bufRead 7 = some (Config.bufAtReset 1 7) := ⟨rfl, rfl, rfl, rfl⟩

/-! ## Envelope (S1, V2) -/

/-- One update of a voice, as its stage, START and AMP. -/
def updated (c : Config) (v : Voice) (t : Ticks) : Stage × Ticks × Gain :=
  let u := v.update c t
  (u.stage, u.start, u.amp)

theorem test_attack : [0, 1, 3, 4, 50000, 99999].map (updated Config.default (voiceIn .attack)) =
      [0, 0, 0, 1, 16384, 32767].map (fun a => (.attack, 0, a)) ∧
    updated Config.default (voiceIn .attack) 100000 = (.decay, 100000, 32768) ∧
    updated Config.default (voiceIn .attack) (2 ^ 40) = (.decay, 2 ^ 40, 32768) := by decide +kernel

theorem test_decay :
    [0, 1, 61, 62, 500000, 999999].map (updated { Config.default with sustainLvl := 16384 } (voiceIn .decay)) =
      [32768, 32768, 32768, 32767, 24576, 16385].map (fun a => (.decay, 0, a)) ∧
    updated { Config.default with sustainLvl := 16384 } (voiceIn .decay) 1000000 = (.sustain, 1000000, 16384) := by
  decide +kernel

theorem test_release :
    [0, 1, 100000, 349982, 349983, 349999].map (updated Config.default { voiceIn .release with r0 := 20000 }) =
      [20000, 19999, 14285, 1, 0, 0].map (fun a => (.release, 0, a)) ∧
    updated Config.default { voiceIn .release with r0 := 20000 } 350000 = (.finished, 350000, 0) := by decide +kernel

/-- V2: START = 2^64 - 10 and T = 5 give e = 15. -/
theorem test_elapsed_wraps : Voice.elapsed 5 { voiceIn .attack with start := 0xFFFFFFFFFFFFFFF6 } = 15 := by
  decide +kernel

/-! ## Waveforms (V3) -/

/-- The phases of V3. -/
def v3Phases : List Word := [0, 0x00400000, 0x20000000, 0x3FFFFFFF, 0x40000000, 0x7FFFFFFF, 0x80000000,
  0xBFFFFFFF, 0xC0000000, 0xE0000000, 0xFFFFFFFF]

/-- The values of a waveform at the phases of V3. -/
def v3Values (kind : WaveKind) : List Int := v3Phases.map fun ph => (waveGen .lfsr kind ph ⟨1, 0⟩).1

theorem test_sine : v3Values .sine = [0, 201, 23170, 32767, 32767, 201, 0, -32767, -32767, -23170, -201] := by
  decide +kernel
theorem test_saw :
    v3Values .saw = [-32768, -32704, -24576, -16385, -16384, -1, 0, 16383, 16384, 24576, 32767] := by decide +kernel
theorem test_square : v3Values .square = [32767, 32767, 32767, 32767, 32767, 32767, -32768, -32768, -32768, -32768,
    -32768] := by decide +kernel
theorem test_pulse : v3Values .pulse = [32767, 32767, 32767, 32767, -32768, -32768, -32768, -32768, -32768, -32768,
    -32768] := by decide +kernel
theorem test_triangle :
    v3Values .triangle = [0, 128, 16384, 32766, 32767, 2, 0, -32766, -32768, -16384, -2] := by decide +kernel

/-- The example of R137: six evaluations from the reset seed. -/
theorem test_noise : (oscSum .lfsr .whiteNoise (List.replicate 6 ⟨0, 0⟩) ⟨0xACE1ACE1, 0⟩) =
    (-10637 + 27450 + 13725 + 6861 + 3429 - 31055, ⟨0xEE8886B1, 0⟩) := by decide +kernel

/-! ## NCO, mixer and pass (V4, V5, V6, P4) -/

theorem test_tuning_rom : noteFtw 44100 4 9 = some 42852281 ∧ noteFtw 48000 4 9 = some 39370534 ∧
    noteFtw 44100 8 11 = some 769600953 ∧ noteFtw 48000 0 0 = some 1463116 ∧ noteFtw 44100 9 0 = none := by
  decide +kernel

theorem test_detune_sets :
    (List.range 8).map (detunedFtw 8 42852281 65536) = [21426140, 27547894, 33669649, 39791403, 45913158, 52034912,
      58156667, 64278421] ∧
    (List.range 4).map (detunedFtw 4 25480119 32768) = [19110089, 23356775, 27603462, 31850148] := by decide +kernel

theorem test_voice_gains :
    [voiceLevel ⟨.lfsr, .sine, 32768, 16384, 32768⟩ { voiceIn .sustain with amp := 32768 } 92680,
      voiceLevel ⟨.lfsr, .sine, 26214, 32768, 32768⟩ { voiceIn .sustain with amp := 32768 } 32767,
      voiceLevel ⟨.lfsr, .sine, 32768, 16384, 32768⟩ { voiceIn .sustain with amp := 32768 } (-4),
      voiceLevel ⟨.lfsr, .sine, 32768, 11585, 32768⟩ { voiceIn .sustain with amp := 32768 } (-262144),
      voiceLevel ⟨.lfsr, .sine, 26214, 16384, 32768⟩ { voiceIn .sustain with amp := 20000 } 10107] =
    [46340, 26213, -2, -92680, 2467] := by decide +kernel

theorem test_scale_and_clip :
    softClip (polyScale 23170 52426) = 31130 ∧ polyScale 23170 52426 = 37070 ∧ polyScale 10923 270000 = 90002 ∧
    softClip 16384 = 16384 ∧ softClip (-98304) = -31130 ∧ softClip 31131 = 31130 ∧ softClip (-31131) = -31130 := by
  decide +kernel

/-- The first eight samples of P4: a detuned bank of four on A4, AMP = 32768. -/
theorem test_first_samples :
    (sampleLoop ⟨.lfsr, .sine, 32768, 16384, 32768⟩ 8
      { slots := [some { voiceIn .decay with amp := 32768, oscs := tuneBank 4 0 42852281 65536 }], nsamp := 0,
        noise := ⟨1, 0⟩ }).1 = [0, 3917, 8014, 11967, 16048, 19848, 23637, 27282] := by decide +kernel

/-- V6: the first pull after reset answers 0 and leaves CURSOR = 1 and NSAMP = 256. -/
theorem test_first_pull : nextHas (transact .pull tiny) (fun t =>
    t.sink == [0] && t.cursor == 1 && t.nsamp == 256 && t.buf.all (· == 0)) = true := by decide +kernel

/-! ## Ports (R43, R91 to R93) -/

theorem test_status_outputs : statusOf { tinyFull with errFull := true, wave := .pulse } =
    ⟨32768, 3, 2, 0b10, 0, 0xAC44, 1⟩ := by decide +kernel

/-- R92, I7: with no sample offered `out_data` is a free value, named anew at each edge; else it is BUF's. -/
theorem test_out_data : outData quiet tiny = Config.outDataIdle 0 ∧
    nextHas (edge quiet tiny) (fun t => t.edges == 1 && t == { tiny with edges := 1 }) = true ∧
    outData quiet tiny.countEdge = Config.outDataIdle 1 ∧
    outData { quiet with rst := true } tinyBuffered = Config.outDataIdle 0 ∧ outData quiet tinyBuffered = 5 :=
  ⟨rfl, by decide +kernel, rfl, rfl, rfl⟩

/-- R221, R244: a command and a tick at the trigger edge. -/
theorem test_trigger_edge : nextHas (edge { quiet with
      cmdValid := true, cmdData := 0x40000000, outReady := true, tick := true } tiny) (fun t =>
    t.wave == .saw && t.pass == some ⟨0, 1⟩ && t.now == 1 && t.cursor == 256) = true := by decide +kernel

/-! ## The textual form (R94, R95) -/

/-- Lines of P4, and an example of R95. -/
theorem test_assemble : assemble "NOTE_ON 1, A, 4 ; 10004901\n.word 0x70000000\n@pull 2\nMUTE" =
    some [.command 0x10004901, .command 0x70000000, .pull, .pull, .command 0x50000000] := by decide +kernel

/-- The examples of R95: a pitch word, a real volume, and a wave step. -/
theorem test_pseudo_instructions :
    (readLine "NOTE_ON 1, A#3".toList).bind AsmLine.events = some [.command 0x10003A01] ∧
    (AsmLine.setVolumeF (8 / 10)).events = some [.command 0x50006666] ∧
    (readLine "SET_VOLUME_F 0.8_0".toList).bind AsmLine.events = some [.command 0x50006666] ∧
    readLine "SET_VOLUME_F 0.0x8".toList = none ∧
    (AsmLine.waveStep 2).events = some [.command 0x40000000, .command 0x40000000] ∧
    (AsmLine.waveStep 6).events = none ∧ (AsmLine.cmd (.setDetune 131072)).events = none := by decide +kernel

/-! ## Witnesses

For each obligation with hypotheses, a concrete state and operands that meet them, clause by clause, at the
ends of the clauses' ranges. A hypothesis that a pass answers a next state is met by every state of a legal
configuration, said once here. -/

theorem tiny_legal : tiny.cfg.Legal := by decide
theorem default_legal : Config.default.Legal := by decide

/-- A pass of any of the small states answers a next state. -/
theorem pass_of {s : State} (t : Ticks) (hc : s.cfg = tinyConfig) (hl : s.slots.length = 2) :
    ∃ u, renderPass t s = .next u :=
  renderPass_runs t s (by rw [hc]; decide) (by rw [hl, hc]; rfl) (by rw [hc]; decide)

/-! ### Encoding and steps -/

theorem witness_DecodeInvertsEncode : (Instr.noteOn 255 15 15).wellFormed = true ∧
    (Instr.setDetune 131071).wellFormed = true ∧ (Instr.setVolume (-65536)).wellFormed = true ∧
    (Instr.setVolume 65535).wellFormed = true ∧ Instr.illegalHigh.wellFormed = true := by decide

theorem witness_ReservedBitsAreIgnored : (0x1FFF4901 : Word) ≠ 0x10004901 ∧
    (0x1FFF4901 : Word) &&& usedBits (bits (0x1FFF4901 : Word) 31 28) =
      0x10004901 &&& usedBits (bits (0x1FFF4901 : Word) 31 28) := by decide

theorem witness_StepRunsTheDecodedCommand : tiny.cfg.Legal ∧ tiny.cursor.toNat ≤ 256 ∧ tiny.pass = none ∧
    (tiny.setAgenda [.command 0x40000000]).agenda = .command 0x40000000 :: [] :=
  ⟨tiny_legal, by decide, rfl, rfl⟩

theorem witness_StepTakesTheNextTransaction : tiny.cfg.Legal ∧ tiny.cursor.toNat ≤ 256 ∧ tiny.agenda = [] ∧
    tiny.pass = none ∧ (tiny.setAgenda [.pull]).agenda = [.pull] ∧ (tiny.setAgenda [.tick 3]).agenda = [.tick 3] ∧
    (tiny.setAgenda [.reset]).agenda = [.reset] ∧ (tiny.setAgenda [.edge quiet]).agenda = [.edge quiet] :=
  ⟨tiny_legal, by decide, rfl, rfl, rfl, rfl, rfl, rfl⟩

theorem witness_BusyCommandWaitsForThePass : ∃ u, tinyBusy.pass = some ⟨3, 2⟩ ∧ renderPass 3 tinyBusy = .next u :=
  (pass_of 3 rfl rfl).imp fun _ h => ⟨rfl, h⟩

theorem witness_IllegalConfigurationIsRefused :
    (State.resetWith { tinyConfig with numOsc := 0 }).cfg.numOsc = 0 := rfl

/-- A CURSOR at each end of its illegal range; and a slot file of two slots with MAX_VOICES = 1. -/
theorem witness_CursorAboveEndFaults : (misfit.slots.length ≠ misfit.cfg.maxVoices ∧ 11 ≤ 11 ∧ 8 ≤ 8) ∧ ({ tiny with cursor := 257 } : State).cfg.Legal ∧
    256 < ({ tiny with cursor := 257 } : State).cursor.toNat ∧
    256 < ({ tiny with cursor := 511 } : State).cursor.toNat := ⟨by decide, tiny_legal, by decide, by decide⟩

theorem witness_ResetWinsAtAnEdge : ({ quiet with rst := true, cmdValid := true, outReady := true } : Pins).rst =
    true := rfl

theorem witness_FirstPassAfterResetIsSilent : Config.default.Legal := default_legal

/-! ### Commands -/

theorem witness_NopChangesNothing : bits (0x0FFFFFFF : Word) 31 28 = 0 := by decide

/-- An unresolvable note and octave; an active key; a full slot file; and a free slot that is the lowest. -/
theorem witness_NoteOnStartsAVoice : tiny.cfg.Legal ∧ (tiny.slots.length = tiny.cfg.maxVoices ∧
      tinyFull.slots.length = tinyFull.cfg.maxVoices ∧
      ∀ st, (tinyWith st).slots.length = (tinyWith st).cfg.maxVoices) ∧ bits (0x1FFFFFFF : Word) 31 28 = 1 ∧ 11 < 12 ∧ 8 < 9 ∧
    (some (voiceIn .release) ∈ (tinyWith .release).slots ∧ (voiceIn .release).key = 1) ∧
    ((∀ v, some v ∈ tinyFull.slots → v.key ≠ 3) ∧ none ∉ tinyFull.slots) ∧
    ((∀ v, some v ∈ (tinyWith .decay).slots → v.key ≠ 3) ∧ (tinyWith .decay).slots[1]? = some none ∧
      ∀ j < 1, (tinyWith .decay).slots[j]? ≠ some none) := by
  refine ⟨tiny_legal, ⟨rfl, rfl, fun _ => rfl⟩, by decide, by decide, by decide, ⟨by decide, rfl⟩, ⟨?_, by decide⟩, ?_, rfl, by decide⟩
  all_goals
    intro v hv
    simp [tinyFull, tinyWith, voiceIn] at hv
    rcases hv with rfl | rfl <;> decide

/-- An inactive key; and the one voice with the key, releasing and not. -/
theorem witness_NoteOffReleasesTheVoice : bits (0x2FFFFF01 : Word) 31 28 = 2 ∧
    (tiny.slots.length = tiny.cfg.maxVoices ∧ ∀ v, some v ∈ tiny.slots → v.key ≠ 1) ∧
    (∀ st, (tinyWith st).slots.length = (tinyWith st).cfg.maxVoices ∧ (tinyWith st).slots[0]? = some (some (voiceIn st)) ∧ (voiceIn st).key = 1 ∧ (voiceIn st).stage = st ∧
      ∀ (j : Nat) (u : Voice), (tinyWith st).slots[j]? = some (some u) → u.key = 1 → j = 0) := by
  refine ⟨by decide, ⟨rfl, by simp [tiny, State.resetWith, tinyConfig]⟩, fun st => ⟨rfl, rfl, rfl, rfl, ?_⟩⟩
  rintro (_ | _ | j) u h _
  · rfl
  · cases h
  · cases h

theorem witness_ReleaseIsIdempotent : ∃ t, exec (.noteOff 1) (tinyWith .sustain) = .next t := ⟨_, rfl⟩

theorem witness_SetDetuneRetunesEveryVoice : bits (0x3001FFFF : Word) 31 28 = 3 ∧
    (tinyWith .release).slots.length = (tinyWith .release).cfg.maxVoices ∧
    (tinyWith .release).slots[1]? = some none ∧
    (tinyWith .release).slots[0]? = some (some (voiceIn .release)) ∧ 0 < (tinyWith .release).cfg.numOsc :=
  ⟨by decide, rfl, rfl, rfl, by decide⟩

theorem witness_ToggleWaveCycles : bits (0x4FFFFFFF : Word) 31 28 = 4 := by decide

theorem witness_SetVolumeClamps : bits (0x5001FFFF : Word) 31 28 = 5 ∧ (-1 : Int) < 0 ∧
    ((0 : Int) ≤ 0 ∧ (0 : Int) ≤ 32768) ∧ ((0 : Int) ≤ 32768 ∧ (32768 : Int) ≤ 32768) ∧ (32768 : Int) < 32769 := by
  decide

theorem witness_ClearStatusClearsBothFlags : bits (0x6FFFFFFF : Word) 31 28 = 6 := by decide

theorem witness_IllegalOpcodeSetsItsFlag : 7 ≤ bits (0x70000000 : Word) 31 28 ∧
    7 ≤ bits (0xFFFFFFFF : Word) 31 28 := by decide

theorem witness_CommandsNeverFail : tiny.cfg.Legal ∧ tiny.slots.length = tiny.cfg.maxVoices := ⟨tiny_legal, rfl⟩

/-- One command that writes slots and one that does not, each other than the writers its clauses leave out. -/
theorem witness_CommandsKeepTheirFrame : (∃ t, exec (.noteOff 1) (tinyWith .sustain) = .next t) ∧
    (∃ t, exec (.setVolume 7) tiny = .next t) ∧ Instr.noteOff 1 ≠ .toggleWave ∧ Instr.noteOff 1 ≠ .clrStatus :=
  ⟨⟨_, rfl⟩, ⟨_, rfl⟩, by decide, by decide⟩

theorem witness_LaterSettingWins : (∃ t, exec (.setVolume 7) tiny = .next t) ∧
    ∃ t, exec (.setDetune 9) (tinyWith .sustain) = .next t := ⟨⟨_, rfl⟩, ⟨_, rfl⟩⟩

/-- Each register changed, and each flag raised and lowered, by a command that a transaction brings. -/
theorem witness_RegistersHaveOneWriter : (Event.command 0x40000000).isReset = false ∧
    nextHas (transact (.command 0x40000000) tiny) (fun t => t.wave != tiny.wave) = true ∧
    nextHas (transact (.command 0x50000001) tiny) (fun t => t.volume != tiny.volume) = true ∧
    nextHas (transact (.command 0x30000001) tiny) (fun t => t.detune != tiny.detune) = true ∧
    nextHas (transact (.command 0x70000000) tiny) (fun t => t.errIllegal && !tiny.errIllegal) = true ∧
    nextHas (transact (.command 0x10000003) tinyFull) (fun t => t.errFull && !tinyFull.errFull) = true ∧
    nextHas (transact (.command 0x60000000) { tiny with errIllegal := true }) (fun t => !t.errIllegal) = true := by
  decide +kernel

/-! ### Envelope -/

/-- Each stage at its last elapsed time below the duration, and at the duration. -/
theorem witness_UpdateFollowsTheStage : Config.default.Legal ∧ (∀ st, (voiceIn st).stage = st ∧
    ((99999 : Ticks) - (voiceIn st).start).toNat < Config.default.attackT ∧
    Config.default.attackT ≤ ((100000 : Ticks) - (voiceIn st).start).toNat ∧
    ((999999 : Ticks) - (voiceIn st).start).toNat < Config.default.decayT ∧
    Config.default.decayT ≤ ((1000000 : Ticks) - (voiceIn st).start).toNat ∧
    ((349999 : Ticks) - (voiceIn st).start).toNat < Config.default.releaseT ∧
    Config.default.releaseT ≤ ((350000 : Ticks) - (voiceIn st).start).toNat) :=
  ⟨default_legal, fun st => ⟨rfl, by simp [voiceIn, Config.default], by simp [voiceIn, Config.default],
    by simp [voiceIn, Config.default], by simp [voiceIn, Config.default], by simp [voiceIn, Config.default],
    by simp [voiceIn, Config.default]⟩⟩

theorem witness_ZeroLengthStagesAreInstant : tinyConfig.Legal ∧ tinyConfig.attackT = 0 ∧ tinyConfig.decayT = 0 ∧
    ({ tinyConfig with releaseT := 0 } : Config).Legal ∧ (voiceIn .attack).stage = .attack ∧
    (voiceIn .decay).stage = .decay ∧ (voiceIn .release).stage = .release :=
  ⟨by decide, rfl, rfl, by decide, rfl, rfl, rfl⟩

/-- Elapsed times a quantum apart below the duration, and one at the duration, with SUS below and at ONE. -/
theorem witness_EnvelopeRampsAreMonotone : Config.default.Legal ∧
    ({ Config.default with sustainLvl := 16384 } : Config).Legal ∧
    ((99995 : Ticks) - (voiceIn .attack).start).toNat < ((99999 : Ticks) - (voiceIn .attack).start).toNat ∧
    ((99999 : Ticks) - (voiceIn .attack).start).toNat < Config.default.attackT ∧
    Config.default.attackT ≤ (99999 - 99995) * 32768 ∧ 16384 < 32768 ∧
    ((999999 : Ticks) - (voiceIn .decay).start).toNat < Config.default.decayT ∧
    Config.default.decayT ≤ (999999 - 999937) * (32768 - 16384) ∧ Config.default.sustainLvl = 32768 ∧
    0 < Config.default.attackT ∧ Config.default.attackT ≤ ((100000 : Ticks) - (voiceIn .attack).start).toNat ∧
    0 < Config.default.decayT ∧ Config.default.decayT ≤ ((1000000 : Ticks) - (voiceIn .decay).start).toNat := by
  decide +kernel

/-! ### Waveforms and tuning -/

/-- The top sixteen phase bits at each end of each part of the triangle. -/
theorem witness_ShapedWavesFollowThePhase : (0x3FFFFFFF : Word).toNat / 65536 = 16383 ∧
    (0x40000000 : Word).toNat / 65536 = 16384 ∧ (0x40010000 : Word).toNat / 65536 = 16385 ∧
    (0xBFFFFFFF : Word).toNat / 65536 = 49151 ∧ (0xC0000000 : Word).toNat / 65536 = 49152 := by decide

/-- The first and the last index of each quarter wave with its entry; two phases of one index; and two whose
indexes mirror each other. -/
theorem witness_SineHasItsSymmetries :
    ((v3Phases.map fun ph => bits ph 31 22) = [0, 1, 128, 255, 256, 511, 512, 767, 768, 896, 1023] ∧
      (0 : Fin 257).val = 0 ∧ (255 : Fin 257).val = 255 ∧ (256 : Fin 257).val + 256 = 512 ∧
      (1 : Fin 257).val + 511 = 512 ∧ (0 : Fin 257).val + 512 = 512 ∧ (255 : Fin 257).val + 512 = 767 ∧
      (256 : Fin 257).val + 768 = 1024 ∧ (1 : Fin 257).val + 1023 = 1024) ∧ bits (0x20000000 : Word) 31 22 = bits (0x203FFFFF : Word) 31 22 ∧
    bits (0x20000000 : Word) 31 22 + bits (0x60000000 : Word) 31 22 = 512 := by decide

theorem witness_LfsrStaysNonzero : (1 : Word) ≠ 0 := by decide

/-- The smallest and largest base word and detune, and both ends of the bank. -/
theorem witness_DetunedWordsSpreadAroundTheBase : 2 ≤ 2 ∧ 2 ≤ 8 ∧ 8 ≤ 8 ∧ 7 < 8 ∧ 0 < 2 ∧
    1463116 ≤ (1463116 : Word).toNat ∧ (0x7FFFFFFF : Word).toNat < 2 ^ 31 ∧ (65536 : Detune).toNat ≤ 65536 ∧
    (0 : Detune).toNat ≤ 65536 := by decide

theorem witness_FlatBankGivesTheBase : 1 ≤ 1 ∧ 0 < 1 ∧ 1 ≤ 8 ∧ 7 < 8 := by decide

theorem witness_TuningRomIsInRange : 44100 ∈ [44100, 48000] ∧ 48000 ∈ [44100, 48000] ∧ 8 < 16 ∧ 11 < 16 := by decide

/-! ### Mixer -/

/-- The mix of a voice of four square oscillators, all at one phase. -/
def squareMix (ph : Word) : List Slot :=
  [some { voiceIn .sustain with oscs := List.replicate 4 ⟨0, ph⟩, amp := 32768 }]

/-- The context of that mix, at full volume. -/
def squareContext : MixContext := ⟨.lfsr, .square, 32768, 16384, 32768⟩

theorem witness_RsqrtRomIsRounded : 1 ∈ List.range' 1 64 ∧ 64 ∈ List.range' 1 64 := by decide

theorem witness_MixerKeepsItsWidths : squareContext.gainN ≤ 32768 ∧ squareContext.gainV ≤ 32768 ∧
    squareContext.volume.toNat ≤ 32768 ∧ (squareMix 0).length ≤ 64 ∧
    (∀ v, some v ∈ squareMix 0 → v.oscs.length ≤ 8 ∧ v.amp.toNat ≤ 32768) ∧
    ∃ v, some v ∈ squareMix 0 := by
  refine ⟨by decide, by decide, by decide, by decide, ?_, ⟨_, List.mem_singleton_self _⟩⟩
  intro v hv
  simp only [squareMix, List.mem_singleton, Option.some.injEq] at hv
  subst hv
  decide

/-- A mix beyond each threshold, and one within. -/
theorem witness_OutputsAreSoftClipped :
    31130 < polyScale squareContext.gainV (mixSum squareContext (squareMix 0) ⟨1, 0⟩).1 ∧
    polyScale squareContext.gainV (mixSum squareContext (squareMix 0x80000000) ⟨1, 0⟩).1 < -31130 ∧
    polyScale squareContext.gainV (mixSum squareContext [] ⟨1, 0⟩).1 = 0 ∧
    squareContext.kind ≠ .whiteNoise := by decide +kernel

theorem witness_MixIgnoresItsOrder : (voiceIn .finished).stage = .finished ∧
    (voiceIn .release).stage ≠ .finished ∧ squareContext.kind ≠ .whiteNoise ∧
    ([some (voiceIn .sustain), none] : List Slot).Perm [none, some (voiceIn .sustain)] ∧
    ([⟨1, 2⟩, ⟨3, 4⟩] : List Osc).Perm [⟨3, 4⟩, ⟨1, 2⟩] :=
  ⟨rfl, by decide, by decide, List.Perm.swap _ _ _, List.Perm.swap _ _ _⟩

/-! ### Render pass and pull -/

theorem witness_PassWritesTheBlock : ∃ u, renderPass 0 tinyFull = .next u := pass_of 0 rfl rfl

/-- A free slot, a voice that stays, and one that the update finishes. -/
theorem witness_PassUpdatesAdvancesAndEvicts : (∃ u, renderPass 350000 (tinyWith .release) = .next u) ∧
    (tinyWith .release).slots[1]? = some none ∧
    (tinyWith .release).slots[0]? = some (some (voiceIn .release)) ∧
    ((voiceIn .release).update tinyConfig 350000).stage = .finished ∧
    ((voiceIn .release).update tinyConfig 349999).stage ≠ .finished :=
  ⟨pass_of _ rfl rfl, rfl, rfl, by decide +kernel, by decide +kernel⟩

/-- One voice counted, and two. -/
theorem witness_SamplesReadTheirOwnPhase : (∃ u, renderPass 0 (tinyWith .decay) = .next u) ∧
    (∃ u, renderPass 0 tinyFull = .next u) ∧ tinyFull.wave ≠ .whiteNoise ∧
    voiceCount (tinyWith .decay).slots = 1 ∧ voiceCount tinyFull.slots = 2 ∧ 0 < 256 ∧ 255 < 256 :=
  ⟨pass_of _ rfl rfl, pass_of _ rfl rfl, by decide, by decide, by decide, by decide, by decide⟩

theorem witness_PassWithNothingToMixIsSilent : (∃ u, renderPass 350000 (tinyWith .release) = .next u) ∧
    (∀ v, some v ∈ (tinyWith .release).slots → (v.update (tinyWith .release).cfg 350000).stage = .finished) ∧
    ∀ v, some v ∉ tiny.slots := by
  refine ⟨pass_of _ rfl rfl, fun v hv => ?_, by simp [tiny, State.resetWith, tinyConfig]⟩
  simp only [tinyWith, setSlots_slots, List.mem_cons, Option.some.injEq, reduceCtorEq, List.not_mem_nil,
    or_false] at hv
  subst hv
  decide +kernel

/-- The three cases of waveform and noise model, and both ends of the block. -/
theorem witness_NoiseStepsOncePerEvaluation : (∃ u, renderPass 0 (tinyWith .decay) = .next u) ∧
    (∃ u, renderPass 0 { tinyWith .decay with wave := .whiteNoise } = .next u) ∧
    (∃ u, renderPass 0 { tinyWith .decay with
      cfg := { tinyConfig with noise := .draw }, wave := .whiteNoise } = .next u) ∧ 0 < 256 ∧ 255 < 256 ∧
    (∀ v, some v ∈ (tinyWith .decay).slots → v.oscs.length = (tinyWith .decay).cfg.numOsc) := by
  refine ⟨pass_of _ rfl rfl, pass_of _ rfl rfl, renderPass_runs _ _ (by decide) rfl (by decide), by decide, by decide, fun v hv => ?_⟩
  simp only [tinyWith, setSlots_slots, List.mem_cons, Option.some.injEq, reduceCtorEq, List.not_mem_nil,
    or_false] at hv
  subst hv
  rfl

/-- The first and the last buffered sample, and an exhausted buffer. -/
theorem witness_PullServesOneSample :
    (tinyBuffered.cursor.toNat < 256 ∧ tinyBuffered.bufRead tinyBuffered.cursor.toNat = some 5) ∧
    (({ tinyBuffered with cursor := 255 } : State).cursor.toNat < 256 ∧
      ({ tinyBuffered with cursor := 255 } : State).bufRead 255 = some 5) ∧
    (tiny.cursor.toNat = 256 ∧ ∃ u, renderPass tiny.now tiny = .next u) :=
  ⟨⟨by decide, rfl⟩, ⟨by decide, rfl⟩, rfl, pass_of _ rfl rfl⟩

theorem witness_BufferIsServedInOrder : tinyBuffered.cfg.Legal ∧ tinyBuffered.pass = none ∧
    tinyBuffered.cursor.toNat + 256 ≤ 256 := ⟨tiny_legal, rfl, by decide⟩

/-- Both ends of the staleness bound: CURSOR = 0 and CURSOR = 256. -/
theorem witness_CommandsWaitForTheNextPass : (tinyBuffered.cfg.Legal ∧ tinyBuffered.pass = none ∧
      tinyBuffered.cursor.toNat = 0 ∧ ∃ t, exec .toggleWave tinyBuffered = .next t) ∧
    (tiny.cfg.Legal ∧ tiny.pass = none ∧ tiny.cursor.toNat = 256 ∧ ∃ t, exec .toggleWave tiny = .next t) :=
  ⟨⟨tiny_legal, rfl, rfl, _, rfl⟩, tiny_legal, rfl, rfl, _, rfl⟩

/-! ### Ports and edges -/

theorem witness_HandshakesFollowTheState : outValid quiet tinyBuffered = true ∧ cmdReady quiet tinyBuffered = true := by
  decide

theorem witness_StatusOutputsShowTheState :
    (State.resetWith { Config.default with maxVoices := 64 }).slots.length ≤ 64 := by
  simp [State.resetWith]

/-- The input pins with a TOGGLE_WAVE offered. -/
def toggling : Pins := { quiet with cmdValid := true, cmdData := 0x40000000 }

/-- A sample with and without a command, and neither and a command alone over an exhausted buffer. -/
theorem witness_EdgeTransfersASample :
    (∀ p ∈ [{ quiet with outReady := true }, { toggling with outReady := true }],
      p.rst = false ∧ outValid p tinyBuffered = true ∧ p.outReady = true ∧ outData p tinyBuffered = 5) ∧
    (∃ t, exec (decodeWord toggling.cmdData) tinyBuffered = .next t) ∧ tinyBuffered.pass = none ∧
    (quiet.cmdValid = false ∧ quiet.outReady = false ∧ toggling.cmdValid = true ∧ toggling.outReady = false ∧
      tiny.pass = none ∧ tiny.cursor = 256 ∧ ∃ t, exec (decodeWord toggling.cmdData) tiny = .next t) :=
  ⟨by
      intro p hp
      simp only [List.mem_cons, List.not_mem_nil, or_false] at hp
      rcases hp with rfl | rfl <;> exact ⟨rfl, by decide, rfl, rfl⟩, ⟨_, rfl⟩, rfl, rfl, rfl, rfl, rfl, rfl, rfl, _, rfl⟩

theorem witness_TriggerEdgeAppliesTheCommandFirst :
    (∀ p ∈ [{ quiet with outReady := true }, { toggling with outReady := true }],
      p.rst = false ∧ p.outReady = true) ∧ quiet.cmdValid = false ∧ toggling.cmdValid = true ∧ tiny.pass = none ∧
    tiny.cursor = 256 ∧ ∃ t, exec (decodeWord toggling.cmdData) tiny = .next t :=
  ⟨by simp [toggling, quiet], rfl, rfl, rfl, rfl, _, rfl⟩

theorem witness_BusyEdgesHoldThePorts : tinyBusy.pass = some ⟨3, 2⟩ := rfl

theorem witness_PassOverEdgesIsTheAtomicPass : tinyBusy.cfg.Legal ∧ tinyBusy.cursor = 256 ∧
    tinyBusy.pass = some ⟨3, 2⟩ ∧ 1 ≤ 2 ∧
    [quiet, { quiet with tick := true, cmdValid := true, outReady := true }].length = 2 ∧
    (∀ p ∈ [quiet, { quiet with tick := true, cmdValid := true, outReady := true }], p.rst = false) ∧
    ∃ u, renderPass 3 tinyBusy = .next u :=
  ⟨tiny_legal, rfl, rfl, by decide, rfl, by simp [quiet], pass_of 3 rfl rfl⟩

/-! ### Invariants -/

/-- A state with a voice, a full buffer, a received sample and a tick to come, in which the invariant holds. -/
def soundingState : State :=
  { tiny with
    slots := [some (voiceIn .attack), none], buf := List.replicate 256 (-31130), cursor := 255, sink := [31130],
    agenda := [.tick 3] }

/-- What its next step leaves. -/
def soundingNext : State := (soundingState.setAgenda []).advanceNow 3

theorem soundingState_step : step soundingState = .next soundingNext :=
  step_of_event (s := soundingState) tiny_legal (by decide) rfl

theorem soundingState_inv : soundingState.Inv where
  legal := tiny_legal
  slots_length := rfl
  voices_ok := by
    intro v hv
    simp only [soundingState, voicesOf_some, voicesOf_none, voicesOf_nil, List.mem_singleton] at hv
    subst hv
    exact ⟨⟨4, 9, by decide, by decide, by decide +kernel⟩, by decide +kernel, by decide, by decide, by decide⟩
  keys_distinct := List.nodup_singleton _
  volume_le := by decide
  detune_le := by decide
  lfsr_ne := by decide
  cursor_le := by decide
  buf_wf := block_wf List.length_replicate
  buf_ready := fun _ => List.length_replicate
  buf_clipped := by
    intro x hx
    rw [List.eq_of_mem_replicate hx]
    exact ⟨by decide, by decide⟩
  sink_clipped := by
    intro x hx
    rw [List.mem_singleton.mp hx]
    exact ⟨by decide, by decide⟩
  pass_ok := fun _ h => nomatch h

theorem witness_ResetMeetsTheInvariant : Config.default.Legal := default_legal

theorem witness_StepKeepsTheInvariant : soundingState.Inv ∧ step soundingState = .next soundingNext :=
  ⟨soundingState_inv, soundingState_step⟩

theorem witness_StepNeverStops : soundingState.Inv := soundingState_inv

theorem witness_EveryRunGoesOn : Config.default.Legal := default_legal

theorem witness_ParametersNeverChange : step soundingState = .next soundingNext := soundingState_step

/-- A step over which NOW rises, and one with a reset from NOW = 7. -/
theorem witness_StagesStartInThePast : soundingState.StartsInPast ∧ step soundingState = .next soundingNext ∧
    soundingState.now.toNat ≤ soundingNext.now.toNat ∧
    (let s := { soundingState with now := 7, agenda := [.reset] }
     s.StartsInPast ∧ step s = .next (s.setAgenda []).resetBlock ∧ Event.reset.isReset = true) := by
  refine ⟨⟨fun v hv => ?_, fun _ h => nomatch h⟩, soundingState_step, by decide,
    ⟨fun v hv => ?_, fun _ h => nomatch h⟩, step_of_event (e := .reset) tiny_legal (by decide) rfl, rfl⟩
  all_goals
    simp only [soundingState, voicesOf_some, voicesOf_none, voicesOf_nil, List.mem_singleton] at hv
    subst hv
    decide

end Sys2Proof.Tests
end

section
/-! PROOFS. 00_scope.md: what a step takes up and when it is refused, that no step changes a parameter, and that a
pass spread over its clock edges is the atomic pass. -/

namespace Sys2Proof.Machine

/-! ## What a step takes up -/

/-- A configuration outside R5 is refused (R6). -/
theorem step_of_illegal {s : State} (h : ¬ s.cfg.Legal) : step s = .refused .illegalConfig := if_neg h

/-- No transaction refuses. -/
theorem transact_ne_refused (e : Event) (s : State) (x : Refusal) : transact e s ≠ .refused x := by
  cases e with
  | command w => simp [transact, andThen_eq_refused, settle_ne_refused, exec_ne_refused]
  | pull => simp [transact, andThen_eq_refused, settle_ne_refused, pull_ne_refused]
  | tick k => simp [transact]
  | reset => simp [transact]
  | edge p => exact edge_ne_refused p s x

/-- In a legal configuration no step refuses. -/
theorem step_ne_refused {s : State} (hl : s.cfg.Legal) (x : Refusal) : step s ≠ .refused x := by
  rw [step, runAgenda, if_pos hl]
  split
  · unfold takeEvent
    split
    · simp
    · exact transact_ne_refused _ _ x
  · simp

/-- Settles O9: a step outside R5 is refused by its first test, and no transaction refuses. -/
theorem illegalConfigurationIsRefused : Obligations.IllegalConfigurationIsRefused := by
  intro s
  refine ⟨fun r => ⟨fun h => ?_, ?_⟩, fun h0 => step_of_illegal ?_⟩
  · have hl : ¬ s.cfg.Legal := fun hl => step_ne_refused hl r h
    rw [step_of_illegal hl] at h
    exact ⟨hl, (Host.Outcome.refused.inj h).symm⟩
  · rintro ⟨hl, rfl⟩
    exact step_of_illegal hl
  · rintro ⟨-, ⟨hosc, -⟩, -⟩
    omega

/-- With BUSY = 0 a command transaction is the command (R170). -/
theorem transact_command_idle {s : State} (h : s.pass = none) (w : Word) :
    transact (.command w) s = exec (decodeWord w) s := by rw [transact, settle_idle h, andThen_next]

/-- With BUSY = 0 a pull transaction is the pull (R220). -/
theorem transact_pull_idle {s : State} (h : s.pass = none) : transact .pull s = pull s := by
  rw [transact, settle_idle h, andThen_next]

/-- Settles O5: the step takes up the command, and with BUSY = 0 the command waits for nothing. -/
theorem stepRunsTheDecodedCommand : Obligations.StepRunsTheDecodedCommand := by
  intro s hl hc
  refine ⟨fun w rest hp ha => ?_, fun nbits w => ?_⟩
  · exact (step_of_event hl hc ha).trans (transact_command_idle (s := s.setAgenda rest) hp w)
  · exact (step_of_event (s := s.withFetchWord nbits w) hl hc rfl).trans (transact_command_idle rfl _)

/-- Settles O6: one case for each agent, and one for none. -/
theorem stepTakesTheNextTransaction : Obligations.StepTakesTheNextTransaction := by
  intro s hl hc
  refine ⟨step_idle hl hc, fun rest ha hp => ?_, fun k rest ha => ?_, fun rest ha => ?_, fun p rest ha => ?_⟩
  · exact (step_of_event hl hc ha).trans (transact_pull_idle (s := s.setAgenda rest) hp)
  all_goals exact step_of_event hl hc ha

/-! ## No step changes a parameter (R5, R45) -/

/-- No command changes a parameter. -/
theorem exec_cfg {i : Instr} {s t : State} (h : exec i s = .next t) : t.cfg = s.cfg := by
  cases i with
  | noteOn key note oct =>
    rcases execNoteOn_cases h with
      ⟨-, rfl⟩ | ⟨-, ⟨-, rfl⟩ | ⟨-, -, -, rfl⟩ | ⟨i, base, -, -, -, -, rfl⟩⟩ <;> rfl
  | noteOff key => rcases execNoteOff_cases h with ⟨-, ⟨-, rfl⟩ | ⟨i, -, rfl⟩⟩ <;> rfl
  | setDetune d => obtain ⟨-, rfl⟩ := execSetDetune_cases h; rfl
  | nop | toggleWave | setVolume | clrStatus | illegal7 | illegalHigh =>
    cases h
    rfl

/-- No pass changes a parameter. -/
theorem renderPass_cfg {t : Ticks} {s u : State} (h : renderPass t s = .next u) : u.cfg = s.cfg := by
  obtain ⟨loop, rfl, -⟩ := renderPass_loop h
  rfl

/-- No sample transfer changes a parameter. -/
theorem serve_cfg {s u : State} (h : serve s = .next u) : u.cfg = s.cfg := by
  obtain ⟨x, -, rfl⟩ := serve_next h
  rfl

/-- Waiting for a pass changes no parameter. -/
theorem settle_cfg {s u : State} (h : settle s = .next u) : u.cfg = s.cfg := by
  cases hp : s.pass with
  | none => rw [settle_idle hp] at h; cases h; rfl
  | some f => exact renderPass_cfg (settle_busy hp ▸ h)

/-- No pull changes a parameter. -/
theorem pull_cfg {s u : State} (h : pull s = .next u) : u.cfg = s.cfg := by
  by_cases hc : s.cursor = 256
  · obtain ⟨v, hv, hu⟩ := andThen_eq_next.mp (pull_exhausted hc ▸ h)
    exact (serve_cfg hu).trans (renderPass_cfg hv)
  · exact serve_cfg (pull_buffered hc ▸ h)

/-- The command port changes no parameter at an edge. -/
theorem edgeCommand_cfg {p : Pins} {s u : State} (h : edgeCommand p s = .next u) : u.cfg = s.cfg := by
  unfold edgeCommand at h
  split at h
  · exact exec_cfg h
  · cases h; rfl

/-- The output port changes no parameter at an edge. -/
theorem edgeOutput_cfg {p : Pins} {s u : State} (h : edgeOutput p s = .next u) : u.cfg = s.cfg := by
  unfold edgeOutput at h
  split at h
  · cases h; rfl
  split at h
  · exact serve_cfg h
  split at h <;> cases h
  rfl

/-- The edges of a pass change no parameter. -/
theorem edgePass_cfg {f : PassInFlight} {s u : State} (h : edgePass f s = .next u) : u.cfg = s.cfg := by
  unfold edgePass at h
  split at h
  · exact renderPass_cfg h
  · cases h; rfl

/-- The render engine and the output port change no parameter at an edge. -/
theorem edgeEngine_cfg {p : Pins} {s u : State} (h : edgeEngine p s = .next u) : u.cfg = s.cfg := by
  unfold edgeEngine at h
  split at h
  · exact edgePass_cfg h
  · exact edgeOutput_cfg h

/-- The end of an edge counts the tick, if there is one, and the edge. -/
theorem edgeTick_eq (p : Pins) (s : State) :
    edgeTick p s = .next { s with now := s.now + BitVec.ofNat 64 p.tick.toNat, edges := s.edges + 1 } := by
  cases h : p.tick <;> simp [edgeTick, h, State.advanceNow, State.countEdge]

/-- No clock edge changes a parameter. -/
theorem edge_cfg {p : Pins} {s t : State} (h : edge p s = .next t) : t.cfg = s.cfg := by
  cases hr : p.rst with
  | true => rw [edge_reset hr] at h; cases h; rfl
  | false =>
    rw [edge_run hr, andThen_eq_next] at h
    obtain ⟨v, hv, ht⟩ := h
    obtain ⟨u, hu, hv⟩ := andThen_eq_next.mp hv
    rw [edgeTick_eq] at ht
    cases ht
    exact (edgeEngine_cfg hv).trans (edgeCommand_cfg hu)

/-- No transaction changes a parameter. -/
theorem transact_cfg {e : Event} {s t : State} (h : transact e s = .next t) : t.cfg = s.cfg := by
  cases e with
  | command w =>
    obtain ⟨u, hu, ht⟩ := andThen_eq_next.mp h
    exact (exec_cfg ht).trans (settle_cfg hu)
  | pull =>
    obtain ⟨u, hu, ht⟩ := andThen_eq_next.mp h
    exact (pull_cfg ht).trans (settle_cfg hu)
  | tick k => cases h; rfl
  | reset => cases h; rfl
  | edge p => exact edge_cfg h

/-- Settles O59: a step is idle or is one transaction, and no transaction changes a parameter. -/
theorem parametersNeverChange : Obligations.ParametersNeverChange := by
  intro s t h
  obtain ⟨-, -, ⟨-, rfl⟩ | ⟨e, rest, -, ht⟩⟩ := step_next h
  · rfl
  · exact (transact_cfg ht).trans (setAgenda_cfg s rest)

/-! ## A pass spread over its clock edges -/

/-- The fields that clock edges move on while a pass is in progress, and that the pass itself neither reads nor
writes: what the agents do next, NOW, and the count of edges. -/
def State.setAround (s : State) (es : List Event) (now : Ticks) (edges : Nat) : State :=
  { s with agenda := es, now := now, edges := edges }

/-- The part of a pass after its update phase makes no difference to those fields, nor they to it. -/
theorem renderSlots_setAround (s : State) (slots : List Slot) (p : Option PassInFlight) (es : List Event)
    (now : Ticks) (edges : Nat) : renderSlots ((s.setPass p).setAround es now edges) slots =
      andThen (renderSlots s slots) fun u => .next (u.setAround es now edges) := by
  have hmix : mixContext ((s.setPass p).setAround es now edges) slots = mixContext s slots := rfl
  unfold renderSlots
  rw [hmix]
  generalize BLOCK = k
  cases mixContext s slots <;> rfl

/-- A pass works on its latched time: how far NOW, the agenda, the edges and BUSY's countdown have gone meanwhile
makes no difference to what it does (R223). -/
theorem renderPass_setAround (t : Ticks) (s : State) (p : Option PassInFlight) (es : List Event) (now : Ticks)
    (edges : Nat) : renderPass t ((s.setPass p).setAround es now edges) =
      andThen (renderPass t s) fun u => .next (u.setAround es now edges) := by
  by_cases hl : s.slots.length = s.cfg.maxVoices
  · rw [renderPass, renderPass, onSlots_eq hl, onSlots_eq (s := (s.setPass p).setAround es now edges) hl]
    exact renderSlots_setAround s _ p es now edges
  · rw [renderPass, renderPass, onSlots_fault hl, onSlots_fault (s := (s.setPass p).setAround es now edges) hl,
      andThen_fault]

/-- An edge without reset that meets a pass in progress: the step is one edge of the pass and the tick, whatever
the ports are offered (R230, R275). -/
theorem step_edge_busy {s : State} {f : PassInFlight} {p : Pins} {rest : List Event} (hl : s.cfg.Legal)
    (hc : s.cursor = 256) (hp : s.pass = some f) (hr : p.rst = false) :
    step (s.setAgenda (.edge p :: rest)) = andThen (edgePass f (s.setAgenda rest)) (edgeTick p) := by
  have hc' : s.cursor.toNat ≤ 256 := by simp [hc]
  rw [step_of_event (s := s.setAgenda (.edge p :: rest)) hl hc' rfl, setAgenda_setAgenda, transact, edge_run hr,
    edgeCommand_busy (s := s.setAgenda rest) hp, andThen_next, edgeEngine, setAgenda_pass, hp]

/-- An edge before the last counts the pass down, and nothing else of it is there yet. -/
theorem step_edge_counts_down {s : State} {f : PassInFlight} {p : Pins} {rest : List Event} (hl : s.cfg.Legal)
    (hc : s.cursor = 256) (hp : s.pass = some f) (hr : p.rst = false) (hf : 1 < f.left) :
    step (s.setAgenda (.edge p :: rest)) = .next ((s.setPass (some { f with left := f.left - 1 })).setAround rest
      (s.now + BitVec.ofNat 64 p.tick.toNat) (s.edges + 1)) := by
  rw [step_edge_busy hl hc hp hr, edgePass, if_neg (by omega), andThen_next, edgeTick_eq]
  rfl

/-- The last edge lands what the atomic pass leaves. -/
theorem step_edge_lands {s u : State} {f : PassInFlight} {p : Pins} {rest : List Event} (hl : s.cfg.Legal)
    (hc : s.cursor = 256) (hp : s.pass = some f) (hr : p.rst = false) (hf : f.left = 1)
    (hu : renderPass f.time s = .next u) :
    step (s.setAgenda (.edge p :: rest)) = .next (u.setAround rest (s.now + BitVec.ofNat 64 p.tick.toNat)
      (s.edges + 1)) := by
  have hpass : renderPass f.time (s.setAgenda rest) = .next (u.setAround rest s.now s.edges) :=
    (renderPass_setAround f.time s s.pass rest s.now s.edges).trans (by rw [hu, andThen_next])
  rw [step_edge_busy hl hc hp hr, edgePass, if_pos (by omega), hpass, andThen_next, edgeTick_eq]
  rfl

/-- The ticks of the edges so far and of those to come add up in NOW. -/
theorem now_add_countP_cons (now : Ticks) (p : Pins) (pins : List Pins) :
    now + BitVec.ofNat 64 ((p :: pins).countP fun p => p.tick) =
      now + BitVec.ofNat 64 p.tick.toNat + BitVec.ofNat 64 (pins.countP fun p => p.tick) := by
  rw [BitVec.add_assoc, ← BitVec.ofNat_add, List.countP_cons, Nat.add_comm]
  cases p.tick <;> rfl

/-- The edges a pass has left, `p` and then `pins`: each but the last counts down and keeps what the pass reads,
and the last lands it. -/
theorem stepMany_pass (pins : List Pins) : ∀ {p : Pins} {s u : State} {f : PassInFlight},
    renderPass f.time s = .next u → s.cfg.Legal → s.cursor = 256 → s.pass = some f →
    f.left = pins.length + 1 → (∀ q ∈ p :: pins, q.rst = false) →
    stepMany (pins.length + 1) (s.setAgenda ((p :: pins).map .edge)) = .next (u.setAround []
      (s.now + BitVec.ofNat 64 ((p :: pins).countP fun p => p.tick)) (s.edges + (pins.length + 1))) := by
  induction pins with
  | nil =>
    intro p s u f hu hl hc hp hf hr
    rw [now_add_countP_cons, stepMany, List.map_cons, step_edge_lands hl hc hp (hr p List.mem_cons_self) hf hu]
    simp [stepMany]
  | cons q pins ih =>
    intro p s u f hu hl hc hp hf hr
    obtain ⟨hrp, hrs⟩ := List.forall_mem_cons.mp hr
    rw [List.length_cons] at hf
    rw [now_add_countP_cons, stepMany, List.map_cons, step_edge_counts_down hl hc hp hrp (by omega), andThen_next,
      List.length_cons, Nat.add_comm (pins.length + 1) 1, ← Nat.add_assoc]
    have hu' := renderPass_setAround f.time s (some { f with left := f.left - 1 }) ((q :: pins).map .edge)
      (s.now + BitVec.ofNat 64 p.tick.toNat) (s.edges + 1)
    rw [hu, andThen_next] at hu'
    exact ih (f := { f with left := f.left - 1 }) hu' hl hc rfl (by simp [hf]) hrs

/-- Settles O54, by induction on the edges the pass has left (`stepMany_pass`). -/
theorem passOverEdgesIsTheAtomicPass : Obligations.PassOverEdgesIsTheAtomicPass := by
  intro s u f pins hl hc hp hf hlen hr hu
  cases pins with
  | nil => exact absurd hlen (by rw [List.length_nil]; omega)
  | cons p pins =>
    rw [← hlen]
    exact stepMany_pass pins hu hl hc hp hlen.symm hr

end Sys2Proof.Machine
end

section
/-! PROOFS. 10_state.md, the parts of a transaction: what one transaction is made of, and what the commands leave alone. -/

namespace Sys2Proof.Machine

/-! ## What a transaction is made of (R11, R20) -/

/-- One piece of work of the block, inside a transaction or an edge that accepts the word `w`, if it accepts one: the
command, a render pass at a latched time, a sample transfer, and at the edges of a pass its countdown and its trigger. -/
inductive Work (w : Option Word) (s : State) : State → Prop where
  | command {word : Word} {t : State} (hw : w = some word) (h : exec (decodeWord word) s = .next t) : Work w s t
  | pass {time : Ticks} {t : State} (ht : time = s.now ∨ ∃ f, s.pass = some f ∧ time = f.time)
      (h : renderPass time s = .next t) : Work w s t
  | transfer {t : State} (h : serve s = .next t) : Work w s t
  | countDown {f : PassInFlight} (hp : s.pass = some f) (hf : 1 < f.left) :
      Work w s (s.setPass (some { f with left := f.left - 1 }))
  | trigger (hc : s.cursor = 256) : Work w s (s.setPass (some { time := s.now, left := s.cfg.passCycles }))

/-- Pieces of work one after another. -/
abbrev Works (w : Option Word) : State → State → Prop := Relation.ReflTransGen (Work w)

/-- What every piece of work keeps, all of them keep. -/
theorem Works.keeps {w : Option Word} {P : State → Prop} (hP : ∀ u v, Work w u v → P u → P v) {s t : State}
    (h : Works w s t) (hs : P s) : P t := by
  induction h with
  | refl => exact hs
  | tail _ hw ih => exact hP _ _ hw ih

/-- Waiting for a pass is no work, or the pass at its latched time (R71). -/
theorem settle_works (w : Option Word) {s t : State} (h : settle s = .next t) : Works w s t := by
  cases hp : s.pass with
  | none => rw [settle_idle hp] at h; cases h; exact .refl
  | some f => exact .single (.pass (.inr ⟨f, hp, rfl⟩) (settle_busy hp ▸ h))

/-- A pull is a transfer, after a pass at NOW where the buffer is exhausted (R220). -/
theorem pull_works (w : Option Word) {s t : State} (h : pull s = .next t) : Works w s t := by
  by_cases hc : s.cursor = 256
  · obtain ⟨u, hu, ht⟩ := andThen_eq_next.mp (pull_exhausted hc ▸ h)
    exact .head (.pass (.inl rfl) hu) (.single (.transfer ht))
  · exact .single (.transfer (pull_buffered hc ▸ h))

/-- The command port at an edge is no work, or the command it accepts (R91). -/
theorem edgeCommand_works {p : Pins} {s t : State} (h : edgeCommand p s = .next t) :
    Works (acceptedWord (.edge p) s) s t := by
  unfold edgeCommand at h
  split at h
  · next ha => exact .single (.command (if_pos ha) h)
  · cases h; exact .refl

/-- The output port at an edge is no work, a transfer, or the trigger of a pass (R92, R221). -/
theorem edgeOutput_works (w : Option Word) {p : Pins} {s t : State} (h : edgeOutput p s = .next t) : Works w s t := by
  unfold edgeOutput at h
  split at h
  · cases h; exact .refl
  split at h
  · exact .single (.transfer h)
  split at h
  · next hc => cases h; exact .single (.trigger hc)
  · cases h

/-- The engine at an edge is the pass at its last edge, its countdown before, or what the output port does (R230). -/
theorem edgeEngine_works (w : Option Word) {p : Pins} {s t : State} (h : edgeEngine p s = .next t) : Works w s t := by
  unfold edgeEngine at h
  split at h
  · next f hp =>
    unfold edgePass at h
    split at h
    · exact .single (.pass (.inr ⟨f, hp, rfl⟩) h)
    · next hf => cases h; exact .single (.countDown hp (by omega))
  · exact edgeOutput_works w h

/-- A reset leaves the state after reset, its edge counted where it was an edge (R260). -/
theorem transact_of_reset {e : Event} {s t : State} (he : e.isReset = true) (h : transact e s = .next t) :
    t = s.resetBlock ∨ t = s.resetBlock.countEdge := by
  cases e with
  | reset => cases h; exact .inl rfl
  | edge p => cases (edge_reset he).symm.trans h; exact .inr rfl
  | command | pull | tick => cases he

/-- Any other transaction or edge is pieces of work, and then ticks and the count of edges. -/
theorem transact_works {e : Event} {s t : State} (he : e.isReset = false) (h : transact e s = .next t) :
    ∃ u k n, Works (acceptedWord e s) s u ∧ t = { u with now := u.now + BitVec.ofNat 64 k, edges := u.edges + n } := by
  cases e with
  | command w =>
    obtain ⟨u, hu, ht⟩ := andThen_eq_next.mp h
    exact ⟨t, 0, 0, .tail (settle_works _ hu) (.command rfl ht), by simp⟩
  | pull =>
    obtain ⟨u, hu, ht⟩ := andThen_eq_next.mp h
    exact ⟨t, 0, 0, .trans (settle_works _ hu) (pull_works _ ht), by simp⟩
  | tick k => cases h; exact ⟨s, k, 0, .refl, rfl⟩
  | reset => cases he
  | edge p =>
    obtain ⟨v, hv, ht⟩ := andThen_eq_next.mp ((edge_run he).symm.trans h)
    obtain ⟨u, hu, hv⟩ := andThen_eq_next.mp hv
    rw [edgeTick_eq] at ht
    cases ht
    exact ⟨v, p.tick.toNat, 1, .trans (edgeCommand_works hu) (edgeEngine_works _ hv), rfl⟩

/-! ## What the commands leave alone (R21, R170) -/

/-- The state a command leaves, with everything it cannot write as it was. -/
theorem exec_frame {i : Instr} {s t : State} (h : exec i s = .next t) :
    t = { s with
      wave := t.wave, volume := t.volume, detune := t.detune, errIllegal := t.errIllegal,
      errFull := t.errFull, slots := t.slots } := by
  cases i with
  | noteOn key note oct =>
    rcases execNoteOn_cases h with
      ⟨-, rfl⟩ | ⟨-, ⟨-, rfl⟩ | ⟨-, -, -, rfl⟩ | ⟨i, base, -, -, -, -, rfl⟩⟩ <;> rfl
  | noteOff key => rcases execNoteOff_cases h with ⟨-, ⟨-, rfl⟩ | ⟨i, -, rfl⟩⟩ <;> rfl
  | setDetune d => obtain ⟨-, rfl⟩ := execSetDetune_cases h; rfl
  | nop | toggleWave | setVolume | clrStatus | illegal7 | illegalHigh =>
    cases h
    rfl

/-- Settles O24: the frame of every command (`exec_frame`), and for each command the registers it does not write. -/
theorem commandsKeepTheirFrame : Obligations.CommandsKeepTheirFrame := by
  intro i s t h
  refine ⟨exec_frame h, fun k => by rw [exec_frame h]; rfl, ?_⟩
  cases i with
  | noteOn key note oct =>
    rcases execNoteOn_cases h with
      ⟨-, rfl⟩ | ⟨-, ⟨-, rfl⟩ | ⟨-, -, -, rfl⟩ | ⟨i, base, -, -, -, -, rfl⟩⟩ <;> simp
  | noteOff key => rcases execNoteOff_cases h with ⟨-, ⟨-, rfl⟩ | ⟨i, -, rfl⟩⟩ <;> simp
  | setDetune d => obtain ⟨-, rfl⟩ := execSetDetune_cases h; simp
  | nop | toggleWave | setVolume | clrStatus | illegal7 | illegalHigh =>
    cases h
    simp

end Sys2Proof.Machine
end

section
/-! PROOFS. 10_state.md sections 3 and 4: which commands write WAVE, VOLUME, DETUNE and the two flags, and that
nothing else outside a reset does. -/

namespace Sys2Proof.Machine

/-! ## The commands that write a flag (R26, R241) -/

/-- Only an illegal opcode raises ERR_ILLEGAL. -/
theorem exec_raises_errIllegal {i : Instr} {s t : State} (h : exec i s = .next t) (hs : s.errIllegal = false)
    (ht : t.errIllegal = true) : i = .illegal7 ∨ i = .illegalHigh := by
  obtain ⟨-, -, -, -, -, hframe, -⟩ := commandsKeepTheirFrame i s t h
  by_contra! hi
  by_cases hc : i = .clrStatus
  · subst hc; cases h; simp at ht
  · simp [hframe hc hi.1 hi.2, hs] at ht

/-- Only a NOTE_ON of a resolvable pitch class raises ERR_FULL. -/
theorem exec_raises_errFull {i : Instr} {s t : State} (h : exec i s = .next t) (hs : s.errFull = false)
    (ht : t.errFull = true) : ∃ key note oct, i = .noteOn key note oct ∧ note ≤ 11 ∧ oct ≤ 8 := by
  obtain ⟨-, -, -, -, -, -, hframe, -⟩ := commandsKeepTheirFrame i s t h
  cases i with
  | noteOn key note oct =>
    rcases execNoteOn_cases h with ⟨-, rfl⟩ | ⟨-, ⟨-, rfl⟩ | ⟨hr, -, -, -⟩ | ⟨_, _, hr, -⟩⟩
    · simp [hs] at ht
    · simp [hs] at ht
    all_goals
      simp only [resolvable, Bool.and_eq_true, decide_eq_true_eq] at hr
      exact ⟨key, note, oct, rfl, hr⟩
  | clrStatus => cases h; simp at ht
  | nop | noteOff | setDetune | toggleWave | setVolume | illegal7 | illegalHigh =>
    simp [hframe (by simp) (by simp), hs] at ht

/-- Every command but CLR_STATUS keeps a raised ERR_ILLEGAL. -/
theorem exec_keeps_errIllegal {i : Instr} {s t : State} (h : exec i s = .next t) (hi : i ≠ .clrStatus)
    (hs : s.errIllegal = true) : t.errIllegal = true := by
  obtain ⟨-, -, -, -, -, hframe, -⟩ := commandsKeepTheirFrame i s t h
  by_cases h7 : i = .illegal7
  · subst h7; cases h; rfl
  by_cases hh : i = .illegalHigh
  · subst hh; cases h; rfl
  rw [hframe hi h7 hh, hs]

/-- Every command but CLR_STATUS keeps a raised ERR_FULL. -/
theorem exec_keeps_errFull {i : Instr} {s t : State} (h : exec i s = .next t) (hi : i ≠ .clrStatus)
    (hs : s.errFull = true) : t.errFull = true := by
  obtain ⟨-, -, -, -, -, -, hframe, -⟩ := commandsKeepTheirFrame i s t h
  cases i with
  | noteOn key note oct =>
    rcases execNoteOn_cases h with ⟨-, rfl⟩ | ⟨-, ⟨-, rfl⟩ | ⟨-, -, -, rfl⟩ | ⟨_, _, -, -, -, -, rfl⟩⟩ <;> simp [hs]
  | clrStatus => exact absurd rfl hi
  | nop | noteOff | setDetune | toggleWave | setVolume | illegal7 | illegalHigh =>
    rw [hframe (by simp) (by simp), hs]

/-- A word that decodes to an illegal instruction has an opcode from 0x7 on (R81, R86). -/
theorem op_of_decodeWord_illegal {w : Word} (h : decodeWord w = .illegal7 ∨ decodeWord w = .illegalHigh) :
    7 ≤ bits w 31 28 := by
  by_contra! hlt
  unfold decodeWord at h
  interval_cases bits w 31 28 <;> simp at h

/-! ## Nothing else writes these registers -/

/-- The registers that commands alone write have the same values. -/
structure SameRegisters (s t : State) : Prop where
  wave : t.wave = s.wave
  volume : t.volume = s.volume
  detune : t.detune = s.detune
  errIllegal : t.errIllegal = s.errIllegal
  errFull : t.errFull = s.errFull

/-- A piece of work is the accepted command, or it keeps these registers. -/
theorem Work.command_or_same {w : Option Word} {s t : State} (h : Work w s t) :
    (∃ word, w = some word ∧ exec (decodeWord word) s = .next t) ∨ SameRegisters s t := by
  cases h with
  | command hw h => exact .inl ⟨_, hw, h⟩
  | pass _ h => obtain ⟨loop, rfl, -⟩ := renderPass_loop h; exact .inr ⟨rfl, rfl, rfl, rfl, rfl⟩
  | transfer h => obtain ⟨x, -, rfl⟩ := serve_next h; exact .inr ⟨rfl, rfl, rfl, rfl, rfl⟩
  | countDown | trigger => exact .inr ⟨rfl, rfl, rfl, rfl, rfl⟩

/-- Where a property of these registers is lost over a transaction or an edge that is no reset, the accepted command
lost it. -/
theorem transact_loses {P : State → Prop} (hP : ∀ u v, SameRegisters u v → P u → P v) {e : Event} {s t : State}
    (h : transact e s = .next t) (he : e.isReset = false) (hs : P s) (ht : ¬ P t) :
    ∃ w u v, acceptedWord e s = some w ∧ exec (decodeWord w) u = .next v ∧ P u ∧ ¬ P v := by
  by_contra! hno
  obtain ⟨u, k, n, hu, rfl⟩ := transact_works he h
  refine ht (hP u _ ⟨rfl, rfl, rfl, rfl, rfl⟩ (hu.keeps (fun a b hw ha => ?_) hs))
  obtain ⟨w, hw, hx⟩ | hsame := hw.command_or_same
  · exact hno w a b hw hx ha
  · exact hP a b hsame ha

/-- Settles O26: what changed over the transaction, the accepted command changed (`transact_loses`), and the commands
that change a register are those that write it. -/
theorem registersHaveOneWriter : Obligations.RegistersHaveOneWriter := by
  intro e s t h he
  refine ⟨fun ht => ?_, fun ht => ?_, fun ht => ?_, fun ht hs => ?_, fun ht hs => ?_, ?_⟩
  · obtain ⟨w, u, v, hw, hx, hu, hv⟩ :=
      transact_loses (P := (·.wave = s.wave)) (fun _ _ hr => hr.wave.trans) h he rfl ht
    obtain ⟨-, -, hwave, -⟩ := commandsKeepTheirFrame _ u v hx
    exact ⟨w, hw, by_contra fun hi => hv ((hwave hi).trans hu)⟩
  · obtain ⟨w, u, v, hw, hx, hu, hv⟩ :=
      transact_loses (P := (·.volume = s.volume)) (fun _ _ hr => hr.volume.trans) h he rfl ht
    obtain ⟨-, -, -, hvolume, -⟩ := commandsKeepTheirFrame _ u v hx
    by_contra! hi
    exact hv ((hvolume fun x => hi w x hw).trans hu)
  · obtain ⟨w, u, v, hw, hx, hu, hv⟩ :=
      transact_loses (P := (·.detune = s.detune)) (fun _ _ hr => hr.detune.trans) h he rfl ht
    obtain ⟨-, -, -, -, hdetune, -⟩ := commandsKeepTheirFrame _ u v hx
    by_contra! hi
    exact hv ((hdetune fun x => hi w x hw).trans hu)
  · obtain ⟨w, u, v, hw, hx, hu, hv⟩ :=
      transact_loses (P := (·.errIllegal = false)) (fun _ _ hr => hr.errIllegal.trans) h he hs (by simp [ht])
    exact ⟨w, hw, op_of_decodeWord_illegal (exec_raises_errIllegal hx hu (by simpa using hv))⟩
  · obtain ⟨w, u, v, hw, hx, hu, hv⟩ :=
      transact_loses (P := (·.errFull = false)) (fun _ _ hr => hr.errFull.trans) h he hs (by simp [ht])
    obtain ⟨key, note, oct, hi, hn, ho⟩ := exec_raises_errFull hx hu (by simpa using hv)
    exact ⟨w, key, note, oct, hw, hi, hn, ho⟩
  · rintro (⟨ht, hs⟩ | ⟨ht, hs⟩)
    · obtain ⟨w, u, v, hw, hx, hu, hv⟩ :=
        transact_loses (P := (·.errIllegal = true)) (fun _ _ hr => hr.errIllegal.trans) h he hs (by simp [ht])
      exact ⟨w, hw, by_contra fun hi => hv (exec_keeps_errIllegal hx hi hu)⟩
    · obtain ⟨w, u, v, hw, hx, hu, hv⟩ :=
        transact_loses (P := (·.errFull = true)) (fun _ _ hr => hr.errFull.trans) h he hs (by simp [ht])
      exact ⟨w, hw, by_contra fun hi => hv (exec_keeps_errFull hx hi hu)⟩

end Sys2Proof.Machine
end

section
/-! PROOFS. 10_state.md: what reset, ticks and the status outputs are, the LFSR (R29), and the edges that transfer a
sample. -/

namespace Sys2Proof.Machine

/-! ## Ticks and reset (R30, R44) -/

/-- A tick moves NOW and nothing else. -/
theorem transact_tick (k : Nat) (s : State) : transact (.tick k) s = .next (s.advanceNow k) := rfl

/-- Settles O8, by associativity of the addition modulo 2^64. -/
theorem ticksAddUp : Obligations.TicksAddUp := by
  intro s a b
  refine ⟨s.advanceNow a, transact_tick a s, ?_, rfl, by simp [State.advanceNow]⟩
  simp [transact_tick, State.advanceNow, BitVec.ofNat_add, BitVec.add_assoc]

/-- Settles O11: each is a field of the state after reset. -/
theorem resetGivesResetValues : Obligations.ResetGivesResetValues := by
  refine ⟨fun s => ⟨s.resetBlock, rfl, rfl, rfl, rfl, rfl, rfl, rfl, rfl, rfl, rfl, rfl, ?_, ?_⟩, rfl, rfl, rfl⟩
  · simp
  · simp

/-! ## The status outputs (R43) -/

/-- Two flags side by side are bits 1 and 0. -/
theorem getLsbD_ofBool_append : ∀ full illegal : Bool,
    (BitVec.ofBool full ++ BitVec.ofBool illegal).getLsbD 1 = full ∧
    (BitVec.ofBool full ++ BitVec.ofBool illegal).getLsbD 0 = illegal := by decide

/-- Settles O50: V is the number of voices, and 7 bits hold it where there are at most 64 slots. -/
theorem statusOutputsShowTheState : Obligations.StatusOutputsShowTheState := by
  intro s hl
  have hv : voiceCount s.slots ≤ 64 := (voiceCount_le s.slots).trans hl
  obtain ⟨hfull, hillegal⟩ := getLsbD_ofBool_append s.errFull s.errIllegal
  refine ⟨rfl, rfl, ?_, hfull, hillegal, ?_, rfl, rfl⟩
  · simp only [statusOf, BitVec.toNat_ofNat, ← voiceCount_eq]
    omega
  · cases hb : s.busy <;> simp [statusOf, hb]

/-! ## The LFSR (R29, R137) -/

/-- Bit 0 as a field and as a bit. -/
theorem bits_zero_zero (r : Word) : bits r 0 0 = (r.getLsbD 0).toNat := by
  rcases Nat.mod_two_eq_zero_or_one r.toNat with h | h <;> simp [bits, BitVec.getLsbD, h]

/-- The register's step: a shift, and the tap mask where bit 0 is 1. -/
theorem lfsrStep_eq (r : Word) : lfsrStep r = if r.getLsbD 0 then (r >>> 1) ^^^ 0x80200003 else r >>> 1 := by
  rw [lfsrStep, bits_zero_zero]
  cases r.getLsbD 0 <;> rfl

/-- Bit `i` after a step is bit `i + 1` before it, turned over at the taps where bit 0 was 1. -/
theorem getLsbD_lfsrStep (r : Word) (i : Nat) :
    (lfsrStep r).getLsbD i = (r.getLsbD (i + 1) ^^ (r.getLsbD 0 && (0x80200003 : Word).getLsbD i)) := by
  rw [lfsrStep_eq]
  cases r.getLsbD 0 <;> simp [Nat.add_comm]

/-- A step loses nothing: its bit 31 is the bit 0 that was shifted out, which says whether to undo the taps. -/
theorem lfsrStep_injective : Function.Injective lfsrStep := by
  intro a b h
  have hbit (i : Nat) := congrArg (·.getLsbD i) h
  simp only [getLsbD_lfsrStep] at hbit
  have h0 : a.getLsbD 0 = b.getLsbD 0 := by simpa using hbit 31
  apply BitVec.eq_of_getLsbD_eq
  rintro (_ | i) _
  · exact h0
  · simpa only [h0, Bool.xor_left_inj] using hbit i

/-- The register never reaches 0 (R29), since 0 steps to itself and to one register only. -/
theorem lfsrStep_ne_zero {r : Word} (h : r ≠ 0) : lfsrStep r ≠ 0 := fun h0 =>
  h (lfsrStep_injective (h0.trans (by decide : (0 : Word) = lfsrStep 0)))

/-- The low 16 bits read as a signed number (R9). -/
theorem sext_bits_low (w : Word) : sext 16 (bits w 15 0) = (w.setWidth 16).toInt := by
  rw [BitVec.toInt_eq_toNat_cond, BitVec.toNat_setWidth]
  simp only [sext, bits]
  split_ifs <;> omega

/-- Settles O33, from the bits of a step (`getLsbD_lfsrStep`). -/
theorem lfsrStaysNonzero : Obligations.LfsrStaysNonzero :=
  ⟨lfsrStep_eq, lfsrStep_injective, fun _ => lfsrStep_ne_zero,
    fun _ n => by rw [waveGen, waveNoise, sext_bits_low], fun _ _ => rfl⟩

/-! ## Edges that trigger no pass (R91, R92, R221) -/

/-- With no pass in progress the command port is followed by the output port and the tick. -/
theorem edge_idle {p : Pins} {s t : State} (hr : p.rst = false) (hp : t.pass = none)
    (hc : edgeCommand p s = .next t) : edge p s = andThen (edgeOutput p t) (edgeTick p) := by
  rw [edge_run hr, hc, andThen_next, edgeEngine, hp]

/-- With no sample asked for the output port does nothing (R92). -/
theorem edgeOutput_notReady {p : Pins} (s : State) (h : p.outReady = false) : edgeOutput p s = .next s := by
  simp [edgeOutput, h]

/-- A sample asked for is transferred while there is one (R92). -/
theorem edgeOutput_transfer {p : Pins} {s : State} (h : p.outReady = true) (hc : s.cursor.toNat < 256) :
    edgeOutput p s = serve s := by
  simp [edgeOutput, h, hc]

/-- An edge at which the output port transfers a sample of the state `t` that its command port leaves (R92). -/
theorem edge_transfers {p : Pins} {s t : State} {x : Sample} (hr : p.rst = false) (ho : p.outReady = true)
    (hp : t.pass = none) (hc : edgeCommand p s = .next t) (hx : t.bufRead t.cursor.toNat = some x)
    (hlt : t.cursor.toNat < 256) : edge p s = .next { t with
      cursor := t.cursor + 1, sink := x :: t.sink, now := t.now + BitVec.ofNat 64 p.tick.toNat,
      edges := t.edges + 1 } := by
  rw [edge_idle hr hp hc, edgeOutput_transfer ho hlt, serve_of_read hx, andThen_next, edgeTick_eq]
  rfl

/-- An edge at which no sample is asked for: only the tick follows the command port. -/
theorem edge_holds {p : Pins} {s t : State} (hr : p.rst = false) (ho : p.outReady = false) (hp : t.pass = none)
    (hc : edgeCommand p s = .next t) : edge p s = .next { t with
      now := t.now + BitVec.ofNat 64 p.tick.toNat, edges := t.edges + 1 } := by
  rw [edge_idle hr hp hc, edgeOutput_notReady t ho, andThen_next, edgeTick_eq]

/-- The tick of an edge as a summand of NOW. -/
theorem ofNat_tick (p : Pins) : BitVec.ofNat 64 p.tick.toNat = if p.tick then 1 else 0 := by
  cases p.tick <;> rfl

/-- Settles O51: with and without a command, an edge that transfers and one that holds; the command left CURSOR, BUF
and BUSY as they were (`exec_frame`). -/
theorem edgeTransfersASample : Obligations.EdgeTransfersASample := by
  intro p s hr hp
  dsimp only
  rw [← ofNat_tick]
  refine ⟨fun hv ho => ?_, fun ho => ⟨fun hc => edge_holds hr ho hp (edgeCommand_none s hc), fun t hc ht => ?_⟩⟩
  · have hlt : s.cursor.toNat < 256 := by
      simp only [outValid, Bool.and_eq_true, decide_eq_true_eq] at hv
      exact hv.1.1
    obtain ⟨x, hx⟩ := Option.isSome_iff_exists.mp ((bufRead_isSome s _).trans (decide_eq_true hlt))
    rw [outData_of_read hv hx]
    refine ⟨fun hc => edge_transfers hr ho hp (edgeCommand_none s hc) hx hlt, fun t hc ht => ?_⟩
    have hcmd := (edgeCommand_accept hc hr hp).trans ht
    rw [exec_frame ht] at hcmd ⊢
    exact edge_transfers hr ho hp hcmd hx hlt
  · have hcmd := (edgeCommand_accept hc hr hp).trans ht
    rw [exec_frame ht] at hcmd ⊢
    exact edge_holds hr ho hp hcmd

end Sys2Proof.Machine
end

section
/-! PROOFS. 10_state.md sections 7 and 9: the invariant holds after reset, and each piece of work keeps it. -/

namespace Sys2Proof.Machine

/-! ## The invariant after reset (R44) -/

/-- The state after reset of a legal block meets the invariant. -/
theorem resetWith_inv {c : Config} (hc : c.Legal) : (State.resetWith c).Inv := by
  obtain ⟨-, -, -, -, -, -, -, -, -, hvolume, hdetune, ⟨hseed, hseed'⟩, -⟩ := id hc
  have hone : ONE = 32768 := rfl
  exact {
    legal := hc
    slots_length := List.length_replicate
    voices_ok := by simp [State.resetWith]
    keys_distinct := by simp [State.resetWith]
    volume_le := by simp only [State.resetWith, BitVec.toNat_ofNat]; omega
    detune_le := by simp only [State.resetWith, BitVec.toNat_ofNat]; omega
    lfsr_ne := fun h => by
      have := congrArg BitVec.toNat h
      simp only [State.resetWith, BitVec.ofNat_eq_ofNat, BitVec.toNat_ofNat] at this
      omega
    cursor_le := le_rfl
    buf_wf := rfl
    buf_ready := fun h => absurd h (lt_irrefl 256)
    buf_clipped := fun _ h => nomatch h
    sink_clipped := fun _ h => nomatch h
    pass_ok := fun _ h => nomatch h }

/-! ## Parts of the state the invariant does not read -/

/-- A voice is as it should be in any state with the same parameters, NSAMP and DETUNE. -/
theorem Voice.Ok.of_same {s t : State} {v : Voice} (h : v.Ok s) (hc : t.cfg = s.cfg) (hn : t.nsamp = s.nsamp)
    (hd : t.detune = s.detune) : v.Ok t where
  base := hc ▸ h.base
  bank := by rw [hc, hn, hd]; exact h.bank
  amp := h.amp
  r0 := h.r0
  live := h.live

/-- The invariant does not read WAVE, the flags, NOW, the model's counts or the agenda. -/
theorem State.Inv.of_same {s t : State} (h : s.Inv)
    (ht : t = { s with
      wave := t.wave, errIllegal := t.errIllegal, errFull := t.errFull, now := t.now, draws := t.draws,
      resets := t.resets, edges := t.edges, agenda := t.agenda }) : t.Inv := by
  rw [ht]
  exact { h with voices_ok := fun v hv => (h.voices_ok v hv).of_same rfl rfl rfl }

/-- A reset gives the invariant, given a legal configuration and what the sink has received (R260). -/
theorem State.Inv.resetBlock {s : State} (h : s.Inv) : s.resetBlock.Inv :=
  { (resetWith_inv h.legal).of_same (t := { State.resetWith s.cfg with
      draws := s.draws, resets := s.resets + 1, edges := s.edges, agenda := s.agenda }) rfl with
    voices_ok := by simp
    sink_clipped := h.sink_clipped }

/-- Settles O55: the reset values are in range, and a read gives a value exactly at BUF's entries. -/
theorem resetMeetsTheInvariant : Obligations.ResetMeetsTheInvariant := fun _ _ hc =>
  ⟨(resetWith_inv hc).of_same rfl, bufRead_isSome _⟩

/-! ## Commands keep the invariant -/

/-- Another slot file of the same size, of voices as they should be with keys of their own. -/
theorem State.Inv.setSlots {s : State} (h : s.Inv) {l : List Slot} (hl : l.length = s.slots.length)
    (hok : ∀ v ∈ voicesOf l, v.Ok s) (hk : ((voicesOf l).map Voice.key).Nodup) : (s.setSlots l).Inv :=
  { h with
    slots_length := hl.trans h.slots_length
    voices_ok := fun v hv => (hok v hv).of_same rfl rfl rfl
    keys_distinct := hk }

/-- The voice NOTE_ON starts is as it should be (R172). -/
theorem newVoice_ok {s : State} {key : Key} {note oct : Nat} {base : Word} (hr : resolvable note oct = true)
    (hb : noteFtw s.cfg.sampleRate oct note = some base) : (newVoice s key base).Ok s where
  base := by
    simp only [resolvable, Bool.and_eq_true, decide_eq_true_eq] at hr
    exact ⟨oct, note, hr.2, hr.1, hb⟩
  bank := rfl
  amp := Nat.zero_le _
  r0 := Nat.zero_le _
  live := nofun

/-- Release starts from an amplitude, and a releasing voice is live (R103). -/
theorem Voice.Ok.triggerRelease {s : State} {v : Voice} (h : v.Ok s) (now : Ticks) : (v.triggerRelease now).Ok s := by
  rcases triggerRelease_cases now v with ⟨-, hv⟩ | ⟨-, -, hv⟩ <;> rw [hv]
  · exact h
  · exact { h with r0 := h.amp, live := nofun }

/-- NOTE_ON keeps the invariant: a voice is started only where no voice has its key (R36). -/
theorem execNoteOn_inv {key : Key} {note oct : Nat} {s t : State} (hs : s.Inv)
    (h : exec (.noteOn key note oct) s = .next t) : t.Inv := by
  rcases execNoteOn_cases h with
    ⟨-, rfl⟩ | ⟨-, ⟨-, rfl⟩ | ⟨-, -, -, rfl⟩ | ⟨i, base, hr, hk, ha, hb, rfl⟩⟩
  · exact hs
  · exact hs
  · exact hs.of_same rfl
  · have hperm := voicesOf_set_free (newVoice s key base) (allocSlot_some ha).1
    refine hs.setSlots List.length_set (fun v hv => ?_) ?_
    · rcases List.mem_cons.mp (hperm.mem_iff.mp hv) with rfl | hv
      · exact newVoice_ok hr hb
      · exact hs.voices_ok v hv
    · have hnew : key ∉ (voicesOf s.slots).map Voice.key := by
        simpa [mem_voicesOf] using findKey_none.mp hk
      exact (hperm.map Voice.key).nodup_iff.mpr (List.nodup_cons.mpr ⟨hnew, hs.keys_distinct⟩)

/-- NOTE_OFF keeps the invariant. -/
theorem execNoteOff_inv {key : Key} {s t : State} (hs : s.Inv) (h : exec (.noteOff key) s = .next t) : t.Inv := by
  obtain ⟨-, ⟨-, rfl⟩ | ⟨i, -, rfl⟩⟩ := execNoteOff_cases h
  · exact hs
  · refine hs.setSlots (modifyVoice_length ..) (fun v hv => ?_) ?_
    · rcases mem_modifyVoice hv with hv | ⟨w, hw, rfl⟩
      · exact hs.voices_ok v hv
      · exact (hs.voices_ok w hw).triggerRelease s.now
    · rw [keys_modifyVoice (triggerRelease_key s.now)]
      exact hs.keys_distinct

/-- SET_DETUNE keeps the invariant: every bank is tuned by the new DETUNE (R174). -/
theorem execSetDetune_inv {d : Nat} {s t : State} (hs : s.Inv) (h : exec (.setDetune d) s = .next t) : t.Inv := by
  obtain ⟨-, rfl⟩ := execSetDetune_cases h
  refine { hs with
    slots_length := (mapVoices_length ..).trans hs.slots_length
    detune_le := clampDetune_le d
    voices_ok := fun v hv => ?_
    keys_distinct := ?_ }
  · obtain ⟨w, hw, rfl⟩ := List.mem_map.mp (voicesOf_mapVoices .. ▸ hv)
    exact { hs.voices_ok w hw with bank := rfl }
  · rw [setSlots_slots, voicesOf_mapVoices, List.map_map]
    exact hs.keys_distinct

/-- Every command keeps the invariant. -/
theorem exec_inv {i : Instr} {s t : State} (hs : s.Inv) (h : exec i s = .next t) : t.Inv := by
  cases i with
  | noteOn => exact execNoteOn_inv hs h
  | noteOff => exact execNoteOff_inv hs h
  | setDetune => exact execSetDetune_inv hs h
  | setVolume v =>
    cases h
    exact { hs with
      volume_le := clampVolume_le v
      voices_ok := fun v hv => (hs.voices_ok v hv).of_same rfl rfl rfl }
  | nop | toggleWave | clrStatus | illegal7 | illegalHigh =>
    cases h
    exact hs.of_same rfl

/-! ## A render pass keeps the invariant -/

/-- Every stage stores an amplitude (R39, R105 to R109). -/
theorem update_amp_le {c : Config} (t : Ticks) {v : Voice} (hs : c.sustainLvl ≤ ONE) (hr : v.r0.toNat ≤ ONE) :
    (v.update c t).amp.toNat ≤ ONE := by
  have hgain {a : Nat} (ha : a ≤ ONE) : (toGain a).toNat ≤ ONE := (toGain_toNat ha).trans_le ha
  cases h : v.stage <;> simp only [Voice.update, h]
  case attack => unfold Voice.updateAttack; split <;> exact hgain (by simp [attackAmp_le])
  case decay => unfold Voice.updateDecay; split <;> exact hgain (by simp [decayAmp_le, hs])
  case sustain => exact hgain hs
  case release =>
    unfold Voice.updateRelease
    split
    · exact Nat.zero_le _
    · exact hgain ((releaseAmp_le ..).trans hr)
  case finished => exact Nat.zero_le _

/-- Phases `k` tuning words on are those of NSAMP `k` on (R155, R156). -/
theorem tuneBank_advance_by (n : Nat) (nsamp b k : Word) (d : Detune) :
    ((tuneBank n nsamp b d).map fun o => { o with phase := o.phase + k * o.ftw }) = tuneBank n (nsamp + k) b d := by
  simp [tuneBank, tuneOsc, BitVec.add_mul]

/-- What a pass leaves of a voice that it does not evict is as it should be 256 samples on. -/
theorem Voice.Ok.after_pass {s u : State} {v : Voice} (hs : s.Inv) (h : v.Ok s) (time : Ticks) {k : Word}
    (hc : u.cfg = s.cfg) (hn : u.nsamp = s.nsamp + k) (hd : u.detune = s.detune)
    (hlive : (v.update s.cfg time).stage ≠ .finished) :
    Voice.Ok u { v.update s.cfg time with oscs := v.oscs.map fun o => { o with phase := o.phase + k * o.ftw } } where
  base := by rw [hc, update_ftwBase]; exact h.base
  bank := by rw [hc, hn, hd, update_ftwBase, h.bank, tuneBank_advance_by]
  amp := by
    obtain ⟨-, -, -, -, -, -, hsus, -⟩ := hs.legal
    exact update_amp_le time hsus h.r0
  r0 := by rw [update_r0]; exact h.r0
  live := hlive

/-- Every sample of the loop is soft-clipped (R205). -/
theorem sampleLoop_clipped (x : MixContext) (k : Nat) (p : PassState) : ∀ y ∈ (sampleLoop x k p).1, Clipped y := by
  intro y hy
  obtain ⟨j, hj⟩ := List.mem_iff_getElem?.mp hy
  have hlt : j < k := by
    simpa using (List.getElem?_eq_some_iff.mp hj).1
  rw [sampleLoop_getElem? x p hlt, Option.some.injEq] at hj
  rw [Clipped, ← hj, mixSample_toInt]
  exact clamp_mem (by decide)

/-- No number of noise evaluations takes the LFSR to 0 (R29). -/
theorem next_iterate_lfsr_ne (m : NoiseModel) (k : Nat) {n : Noise} (h : n.lfsr ≠ 0) :
    ((Noise.next m)^[k] n).lfsr ≠ 0 := by
  cases m with
  | lfsr =>
    rw [next_lfsr]
    exact Function.Iterate.rec (· ≠ 0) h (fun _ => lfsrStep_ne_zero) k
  | draw => rwa [next_draw]

/-- The loop over banks of one size does not take the LFSR to 0. -/
theorem sampleLoop_lfsr_ne (x : MixContext) {m : Nat} (k : Nat) {p : PassState}
    (hm : ∀ v, some v ∈ p.slots → v.oscs.length = m) (h : p.noise.lfsr ≠ 0) :
    (sampleLoop x k p).2.noise.lfsr ≠ 0 := by
  by_cases hx : x.kind = .whiteNoise
  · rw [sampleLoop_noise hx k p hm]
    exact next_iterate_lfsr_ne _ _ h
  · rwa [sampleLoop_noise_shaped hx]

/-- A pass writes soft-clipped samples (R205). -/
theorem renderPass_clipped {time : Ticks} {s u : State} (h : renderPass time s = .next u) : ∀ y ∈ u.buf, Clipped y := by
  obtain ⟨x, -, rfl⟩ := renderPass_next h
  generalize BLOCK = k
  exact sampleLoop_clipped x k _

/-- A pass does not take the LFSR to 0 (R29). -/
theorem renderPass_lfsr_ne {time : Ticks} {s u : State} (hs : s.Inv) (h : renderPass time s = .next u) :
    u.lfsr ≠ 0 := by
  obtain ⟨x, -, rfl⟩ := renderPass_next h
  generalize BLOCK = k
  refine sampleLoop_lfsr_ne x (m := s.cfg.numOsc) k (fun v hv => ?_) hs.lfsr_ne
  obtain ⟨w, hw, rfl⟩ := List.mem_map.mp (voicesOf_mapVoices .. ▸ mem_voicesOf.mpr hv)
  rw [update_oscs, (hs.voices_ok w hw).bank, tuneBank_length]

/-- A render pass keeps the invariant. -/
theorem renderPass_inv {time : Ticks} {s u : State} (hs : s.Inv) (h : renderPass time s = .next u) : u.Inv := by
  have hclipped := renderPass_clipped h
  have hlfsr := renderPass_lfsr_ne hs h
  obtain ⟨loop, rfl, hlen, hnsamp, hslots⟩ := renderPass_loop h
  refine { hs with
    slots_length := by simp [hslots, hs.slots_length]
    voices_ok := fun v hv => ?_
    keys_distinct := ?_
    lfsr_ne := hlfsr
    cursor_le := Nat.zero_le _
    buf_wf := block_wf hlen
    buf_ready := fun _ => hlen
    buf_clipped := hclipped
    pass_ok := fun _ h => nomatch h }
  · obtain ⟨hv, hlive⟩ := mem_evict.mp hv
    rw [hslots, voicesOf_mapVoices] at hv
    obtain ⟨w, hw, rfl⟩ := List.mem_map.mp hv
    exact (hs.voices_ok w hw).after_pass hs time rfl hnsamp rfl hlive
  · refine ((evict_sublist _).map Voice.key).nodup ?_
    rw [hslots, voicesOf_mapVoices, List.map_map]
    simpa [Function.comp_def] using hs.keys_distinct

/-! ## A transfer and the edges of a pass keep the invariant -/

/-- A transfer keeps the invariant: what it hands over was buffered, and no pass was in progress. -/
theorem serve_inv {s t : State} (hs : s.Inv) (h : serve s = .next t) : t.Inv := by
  obtain ⟨x, hx, rfl⟩ := serve_next h
  have hlt : s.cursor.toNat < 256 :=
    of_decide_eq_true ((bufRead_isSome s _).symm.trans (congrArg Option.isSome hx))
  have hmem : x ∈ s.buf := List.mem_of_getElem? ((bufRead_full (hs.buf_ready hlt) _).symm.trans hx)
  exact { hs with
    voices_ok := fun v hv => (hs.voices_ok v hv).of_same rfl rfl rfl
    cursor_le := by rw [deliver_cursor, BitVec.toNat_add]; simp; omega
    buf_ready := fun _ => hs.buf_ready hlt
    sink_clipped := List.forall_mem_cons.mpr ⟨hs.buf_clipped x hmem, hs.sink_clipped⟩
    pass_ok := fun p hp => by simp [(hs.pass_ok p hp).1] at hlt }

/-- A pass in progress with an edge to go, over an exhausted buffer, meets the invariant (R221, R275). -/
theorem State.Inv.setPass {s : State} (hs : s.Inv) (hc : s.cursor = 256) {f : PassInFlight} (hf : 1 ≤ f.left) :
    (s.setPass (some f)).Inv :=
  { hs with
    voices_ok := fun v hv => (hs.voices_ok v hv).of_same rfl rfl rfl
    pass_ok := fun _ hp => Option.some.inj hp ▸ ⟨hc, hf⟩ }

/-- Every piece of work keeps the invariant. -/
theorem Work.keeps_inv {w : Option Word} {s t : State} (h : Work w s t) (hs : s.Inv) : t.Inv := by
  cases h with
  | command _ h => exact exec_inv hs h
  | pass _ h => exact renderPass_inv hs h
  | transfer h => exact serve_inv hs h
  | countDown hp hf => exact hs.setPass (hs.pass_ok _ hp).1 (by simp only; omega)
  | trigger hc =>
    obtain ⟨-, -, -, -, -, -, -, -, -, -, -, -, hcycles⟩ := hs.legal
    exact hs.setPass hc hcycles

/-- Every transaction and every edge keeps the invariant. -/
theorem transact_inv {e : Event} {s t : State} (hs : s.Inv) (h : transact e s = .next t) : t.Inv := by
  cases he : e.isReset with
  | true =>
    obtain rfl | rfl := transact_of_reset he h
    · exact hs.resetBlock
    · exact hs.resetBlock.of_same rfl
  | false =>
    obtain ⟨u, k, n, hu, rfl⟩ := transact_works he h
    have hinv : u.Inv := hu.keeps (fun _ _ => Work.keeps_inv) hs
    exact hinv.of_same rfl

/-- Settles O56: a step is idle or is one transaction, which is a reset or pieces of work and ticks. -/
theorem stepKeepsTheInvariant : Obligations.StepKeepsTheInvariant := by
  intro s t hs h
  obtain ⟨-, -, ⟨-, rfl⟩ | ⟨e, rest, -, ht⟩⟩ := step_next h
  · exact hs
  · exact transact_inv (hs.of_same rfl) ht

end Sys2Proof.Machine
end

section
/-! PROOFS. 10_state.md section 7: no stage starts later than now (R39) while NOW does not wrap (D31). -/

namespace Sys2Proof.Machine

/-! ## Where the stages of a slot file began -/

/-- Each stage of the slots `l'` began at `time`, or as one of `l` did. -/
def StartsAtOrIn (time : Ticks) (l l' : List Slot) : Prop :=
  ∀ v ∈ voicesOf l', v.start = time ∨ ∃ w ∈ voicesOf l, v.start = w.start

theorem StartsAtOrIn.refl (time : Ticks) (l : List Slot) : StartsAtOrIn time l l := fun v hv => .inr ⟨v, hv, rfl⟩

/-- Slots whose stages began in the past, or at a time that is past, began in the past. -/
theorem StartsAtOrIn.le {time now : Ticks} {l l' : List Slot} (h : StartsAtOrIn time l l')
    (ht : time.toNat ≤ now.toNat) (hl : ∀ w ∈ voicesOf l, w.start.toNat ≤ now.toNat) :
    ∀ v ∈ voicesOf l', v.start.toNat ≤ now.toNat := by
  intro v hv
  obtain hv | ⟨w, hw, hv⟩ := h v hv <;> rw [hv]
  · exact ht
  · exact hl w hw

/-- An update starts a stage at its time, or keeps the stage's start (R105 to R109). -/
theorem update_start (c : Config) (t : Ticks) (v : Voice) :
    (v.update c t).start = t ∨ (v.update c t).start = v.start := by
  cases h : v.stage <;> simp only [Voice.update, h]
  case attack => unfold Voice.updateAttack; split <;> simp
  case decay => unfold Voice.updateDecay; split <;> simp
  case sustain => exact .inr rfl
  case release => unfold Voice.updateRelease; split <;> simp
  case finished => exact .inr rfl

/-- A render pass starts stages at its latched time only (R223). -/
theorem renderPass_starts {time : Ticks} {s u : State} (h : renderPass time s = .next u) :
    StartsAtOrIn time s.slots u.slots := by
  obtain ⟨loop, rfl, -, -, hslots⟩ := renderPass_loop h
  intro v hv
  obtain ⟨hv, -⟩ := mem_evict.mp hv
  rw [hslots, voicesOf_mapVoices] at hv
  obtain ⟨w, hw, rfl⟩ := List.mem_map.mp hv
  exact (update_start s.cfg time w).imp_right fun h => ⟨w, hw, h⟩

/-- NOTE_ON starts a stage at NOW only (R102). -/
theorem execNoteOn_starts {key : Key} {note oct : Nat} {s t : State} (h : exec (.noteOn key note oct) s = .next t) :
    StartsAtOrIn s.now s.slots t.slots := by
  rcases execNoteOn_cases h with
    ⟨-, rfl⟩ | ⟨-, ⟨-, rfl⟩ | ⟨-, -, -, rfl⟩ | ⟨i, base, -, -, ha, -, rfl⟩⟩
  · exact .refl _ _
  · exact .refl _ _
  · exact .refl _ _
  · intro v hv
    rcases List.mem_cons.mp ((voicesOf_set_free _ (allocSlot_some ha).1).mem_iff.mp hv) with rfl | hv
    · exact .inl rfl
    · exact .inr ⟨v, hv, rfl⟩

/-- NOTE_OFF starts a stage at NOW only (R103). -/
theorem execNoteOff_starts {key : Key} {s t : State} (h : exec (.noteOff key) s = .next t) :
    StartsAtOrIn s.now s.slots t.slots := by
  obtain ⟨-, ⟨-, rfl⟩ | ⟨i, -, rfl⟩⟩ := execNoteOff_cases h
  · exact .refl _ _
  intro v hv
  obtain hv | ⟨w, hw, rfl⟩ := mem_modifyVoice hv
  · exact .inr ⟨v, hv, rfl⟩
  · rcases triggerRelease_cases s.now w with ⟨-, hw'⟩ | ⟨-, -, hw'⟩ <;> rw [hw']
    · exact .inr ⟨w, hw, rfl⟩
    · exact .inl rfl

/-- A command starts stages at NOW only. -/
theorem exec_starts {i : Instr} {s t : State} (h : exec i s = .next t) : StartsAtOrIn s.now s.slots t.slots := by
  cases i with
  | noteOn => exact execNoteOn_starts h
  | noteOff => exact execNoteOff_starts h
  | setDetune d =>
    obtain ⟨-, rfl⟩ := execSetDetune_cases h
    intro v hv
    obtain ⟨w, hw, rfl⟩ := List.mem_map.mp (voicesOf_mapVoices .. ▸ hv)
    exact .inr ⟨w, hw, rfl⟩
  | nop | toggleWave | setVolume | clrStatus | illegal7 | illegalHigh =>
    cases h
    exact .refl _ _

/-! ## The steps -/

/-- A block with no voice and no pass in progress has no stage that starts later than now. -/
theorem startsInPast_of_empty {s : State} (hs : s.slots = List.replicate s.cfg.maxVoices none) (hp : s.pass = none) :
    s.StartsInPast where
  voices := by simp [hs]
  pass := by simp [hp]

/-- Stages and latches in the past stay there when NOW does not fall. -/
theorem State.StartsInPast.of_le {s t : State} (h : s.StartsInPast) (hs : t.slots = s.slots) (hp : t.pass = s.pass)
    (hn : s.now.toNat ≤ t.now.toNat) : t.StartsInPast where
  voices v hv := (h.voices v (hs ▸ hv)).trans hn
  pass p hpass := (h.pass p (hp ▸ hpass)).trans hn

/-- No piece of work moves NOW. -/
theorem Work.now {w : Option Word} {s t : State} (h : Work w s t) : t.now = s.now := by
  cases h with
  | command _ h => rw [exec_frame h]
  | pass _ h => obtain ⟨loop, rfl, -⟩ := renderPass_loop h; rfl
  | transfer h => obtain ⟨x, -, rfl⟩ := serve_next h; rfl
  | countDown | trigger => rfl

/-- Every piece of work starts stages, and latches times, no later than now. -/
theorem Work.keeps_startsInPast {w : Option Word} {s t : State} (h : Work w s t) (hs : s.StartsInPast) :
    t.StartsInPast := by
  have hnow := h.now
  cases h with
  | command _ h =>
    refine ⟨by rw [hnow]; exact (exec_starts h).le le_rfl hs.voices, ?_⟩
    rw [exec_frame h]
    exact hs.pass
  | @pass time _ ht h =>
    have hle : time.toNat ≤ s.now.toNat := by
      obtain rfl | ⟨f, hf, rfl⟩ := ht
      · exact le_rfl
      · exact hs.pass f hf
    refine ⟨by rw [hnow]; exact (renderPass_starts h).le hle hs.voices, ?_⟩
    obtain ⟨loop, rfl, -⟩ := renderPass_loop h
    exact fun _ hp => nomatch hp
  | transfer h => obtain ⟨x, -, rfl⟩ := serve_next h; exact ⟨hs.voices, hs.pass⟩
  | @countDown f hp => exact ⟨hs.voices, fun p hpass => Option.some.inj hpass ▸ (hs.pass f hp :)⟩
  | trigger => exact ⟨hs.voices, fun p hpass => Option.some.inj hpass ▸ le_rfl⟩

/-- A transaction that is a reset, or over which NOW does not fall, leaves every start in the past. -/
theorem transact_startsInPast {e : Event} {s t : State} (hs : s.StartsInPast) (h : transact e s = .next t)
    (hn : s.now.toNat ≤ t.now.toNat ∨ e.isReset = true) : t.StartsInPast := by
  cases he : e.isReset with
  | true => obtain rfl | rfl := transact_of_reset he h <;> exact startsInPast_of_empty rfl rfl
  | false =>
    obtain ⟨u, k, n, hu, rfl⟩ := transact_works he h
    have hunow : u.now = s.now := hu.keeps (P := (·.now = s.now)) (fun _ _ hw => hw.now.trans) rfl
    have hpast : u.StartsInPast := hu.keeps (fun _ _ => Work.keeps_startsInPast) hs
    have hle := hn.resolve_right (by simp [he])
    exact hpast.of_le rfl rfl (hunow ▸ hle)

/-- Settles O60: after reset there is no voice, and a step is idle or is one transaction. -/
theorem stagesStartInThePast : Obligations.StagesStartInThePast := by
  refine ⟨fun _ _ => startsInPast_of_empty rfl rfl, fun s t hs h hn => ?_⟩
  obtain ⟨-, -, ⟨-, rfl⟩ | ⟨e, rest, ha, ht⟩⟩ := step_next h
  · exact hs
  · have hs' : (s.setAgenda rest).StartsInPast := ⟨hs.voices, hs.pass⟩
    refine transact_startsInPast hs' ht (hn.imp_right ?_)
    rintro ⟨e', rest', ha', he'⟩
    cases ha.symm.trans ha'
    exact he'

end Sys2Proof.Machine
end

section
/-! PROOFS. 20_memory.md section 3: the order in which buffered samples, commands and render passes take effect. -/

namespace Sys2Proof.Machine

/-! ## Pulls of buffered samples (R69, R220) -/

/-- What a read answers lies inside BUF (R61). -/
theorem lt_of_bufRead {s : State} {i : Nat} {x : Sample} (h : s.bufRead i = some x) : i < 256 :=
  of_decide_eq_true ((bufRead_isSome s i).symm.trans (congrArg Option.isSome h))

/-- Any run of entries inside BUF is a list of samples, written or not (R32, I6). -/
theorem exists_buffered (s : State) {i n : Nat} (h : i + n ≤ 256) :
    ∃ xs : List Sample, xs.length = n ∧ ∀ k < n, s.bufRead (i + k) = xs[k]? := by
  refine ⟨(List.range n).map fun k => (s.buf[i + k]?).getD (Config.bufAtReset s.resets (i + k)), by simp,
    fun k hk => ?_⟩
  have hlt : i + k < BLOCK := show i + k < 256 by omega
  simp [State.bufRead, hlt, hk]

/-- Transfers one after another move CURSOR on by their number and hand the samples over in order. -/
theorem foldl_deliver (s : State) (xs : List Sample) : xs.foldl State.deliver s = { s with
    cursor := s.cursor + BitVec.ofNat 9 xs.length, sink := xs.reverse ++ s.sink } := by
  induction xs generalizing s with
  | nil => simp
  | cons x xs ih =>
    rw [List.foldl_cons, ih]
    simp [Nat.add_comm xs.length 1, BitVec.ofNat_add, BitVec.add_assoc]

/-- A step that pulls a buffered sample hands it over (R220). -/
theorem step_pull_buffered {s : State} {x : Sample} {rest : List Event} (hl : s.cfg.Legal) (hp : s.pass = none)
    (hx : s.bufRead s.cursor.toNat = some x) :
    step (s.setAgenda (.pull :: rest)) = .next ((s.deliver x).setAgenda rest) := by
  have hlt := lt_of_bufRead hx
  have hne : s.cursor ≠ 256 := fun h => by simp [h] at hlt
  rw [step_of_event (s := s.setAgenda (.pull :: rest)) hl hlt.le rfl, setAgenda_setAgenda,
    transact_pull_idle (s := s.setAgenda rest) hp, pull_buffered (s := s.setAgenda rest) hne]
  exact serve_of_read hx

/-- Where the entries from CURSOR on are `xs`, as many pulls hand over `xs`, and what the agents do next runs from
there. -/
theorem stepMany_pulls {xs : List Sample} {s : State} (hl : s.cfg.Legal) (hp : s.pass = none)
    (hx : ∀ k < xs.length, s.bufRead (s.cursor.toNat + k) = xs[k]?) (m : Nat) (es : List Event) :
    stepMany (xs.length + m) (s.setAgenda (List.replicate xs.length .pull ++ es)) =
      stepMany m ((xs.foldl State.deliver s).setAgenda es) := by
  induction xs generalizing s with
  | nil => simp
  | cons x xs ih =>
    rw [List.length_cons] at hx
    have hx0 : s.bufRead s.cursor.toNat = some x := hx 0 (by omega)
    have hcur : (s.deliver x).cursor.toNat = s.cursor.toNat + 1 := by
      have := lt_of_bufRead hx0
      rw [deliver_cursor, BitVec.toNat_add]
      simp
      omega
    rw [List.length_cons, Nat.add_right_comm, stepMany, List.replicate_succ, List.cons_append,
      step_pull_buffered hl hp hx0, andThen_next]
    refine ih (s := s.deliver x) hl hp fun k hk => ?_
    rw [hcur, bufRead_deliver, Nat.add_right_comm, Nat.add_assoc]
    exact hx (k + 1) (by omega)

/-- As many pulls and nothing after them leave `xs` with the sink and the agents idle (R69). -/
theorem stepMany_pulls_only {xs : List Sample} {s : State} (hl : s.cfg.Legal) (hp : s.pass = none)
    (hx : ∀ k < xs.length, s.bufRead (s.cursor.toNat + k) = xs[k]?) :
    stepMany xs.length (s.setAgenda (List.replicate xs.length .pull)) =
      .next ((xs.foldl State.deliver s).setAgenda []) := by
  rw [← List.append_nil (List.replicate _ _)]
  exact stepMany_pulls hl hp hx 0 []

/-- Settles O47, by induction on the samples handed over (`stepMany_pulls`). -/
theorem bufferIsServedInOrder : Obligations.BufferIsServedInOrder := by
  intro s n hl hp hc
  obtain ⟨xs, rfl, hx⟩ := exists_buffered s hc
  refine ⟨xs, rfl, hx, ?_⟩
  rw [stepMany_pulls_only hl hp hx, foldl_deliver]
  simp [State.setAgenda, BitVec.ofNat_add]

/-! ## A command between two passes (R68, R70, R231) -/

/-- With BUSY = 0 and the buffer exhausted, a pull transaction renders and then serves entry 0 (R220, R221). -/
theorem transact_pull_exhausted {s : State} (hp : s.pass = none) (hc : s.cursor = 256) :
    transact .pull s = andThen (renderPass s.now s) serve := by
  rw [transact_pull_idle hp, pull_exhausted hc]

/-- Such a pull reads no entry of BUF that stood there: its pass writes them all first (R231). -/
theorem transact_pull_exhausted_buf {s : State} (hp : s.pass = none) (hc : s.cursor = 256) (buf : List Sample) :
    transact .pull { s with buf := buf } = transact .pull s := by
  rw [transact_pull_exhausted hp hc, transact_pull_exhausted (s := { s with buf := buf }) hp hc, renderPass_buf]

/-- Settles O48: no command writes BUF, CURSOR or the sink's record, so the same samples are handed over with and
without it. -/
theorem commandsWaitForTheNextPass : Obligations.CommandsWaitForTheNextPass := by
  intro i s t hl hp hc ht
  dsimp only
  obtain ⟨hframe, hread, -⟩ := commandsKeepTheirFrame i s t ht
  have hcfg : t.cfg = s.cfg := by rw [hframe]
  have hpass : t.pass = none := by rw [hframe]; exact hp
  have hcur : t.cursor = s.cursor := by rw [hframe]
  have hsink : t.sink = s.sink := by rw [hframe]
  obtain ⟨xs, hlen, hx⟩ := exists_buffered s (i := s.cursor.toNat) (n := 256 - s.cursor.toNat) (by omega)
  rw [← hlen] at hx ⊢
  have hxt : ∀ k < xs.length, t.bufRead (t.cursor.toNat + k) = xs[k]? := by simpa only [hread, hcur] using hx
  have hend : t.cursor + BitVec.ofNat 9 xs.length = 256 := by
    apply BitVec.eq_of_toNat_eq
    simp [hcur, hlen, hc]
  have hb : xs.foldl State.deliver t = { t with cursor := 256, sink := xs.reverse ++ t.sink } := by
    rw [foldl_deliver, hend]
  have hpulls := stepMany_pulls (hcfg ▸ hl) hpass hxt
  have honly := stepMany_pulls_only (hcfg ▸ hl) hpass hxt
  rw [hb] at honly
  refine ⟨_, _, stepMany_pulls_only hl hp hx, honly, ?_, rfl, transact_pull_exhausted hpass rfl,
    transact_pull_exhausted_buf hpass rfl, fun k es => ?_⟩
  · rw [foldl_deliver]
    simp [hsink]
  · rw [hpulls, hb]
    rfl

/-! ## A command or a pull that meets a pass (R66, R71, R230) -/

/-- A pull that finds CURSOR = 0 serves entry 0 of the block (R220). -/
theorem pull_of_cursor_zero {s : State} {x : Sample} (hc : s.cursor = 0) (hx : s.bufRead 0 = some x) :
    pull s = .next { s with cursor := 1, sink := x :: s.sink } := by
  have hread : s.bufRead s.cursor.toNat = some x := by rw [hc]; exact hx
  rw [pull_buffered (by rw [hc]; decide), serve_of_read hread, State.deliver, hc]
  rfl

/-- Settles O7: waiting runs the pass, which leaves BUSY = 0, CURSOR = 0 and the sink's record as it was. -/
theorem busyCommandWaitsForThePass : Obligations.BusyCommandWaitsForThePass := by
  intro s u f hp hu
  have hsettle : settle s = .next u := (settle_busy hp).trans hu
  obtain ⟨loop, rfl, -⟩ := renderPass_loop hu
  obtain ⟨x, hx⟩ := Option.isSome_iff_exists.mp (bufRead_isSome (s.finishPass loop) 0)
  refine ⟨rfl, fun w => by rw [transact, hsettle, andThen_next], x, hx, ?_⟩
  rw [transact, hsettle, andThen_next, pull_of_cursor_zero rfl hx, finishPass_sink]

/-! ## Two settings of one register (R67) -/

/-- Settles O25: the second setting overwrites the register, and retuning a retuned voice is retuning it
(`retune_retune`). -/
theorem laterSettingWins : Obligations.LaterSettingWins := by
  intro s t
  refine ⟨fun a b h => ?_, fun a b h => ?_⟩
  · cases h
    rfl
  · obtain ⟨hl, rfl⟩ := execSetDetune_cases h
    rw [exec_setDetune hl, exec_setDetune (by simpa using hl)]
    simp only [setSlots_slots, mapVoices_mapVoices]
    rfl

/-! ## A CURSOR or a slot file out of range (R61, R246) -/

/-- In a legal configuration a CURSOR above 256 faults before any event (R246). -/
theorem step_of_cursor_above {s : State} (hl : s.cfg.Legal) (hc : 256 < s.cursor.toNat) :
    step s = .fault .cursorOutOfRange := by
  rw [step, runAgenda, if_pos hl, if_neg (by omega)]

/-- A NOTE_ON of a resolvable pitch class visits the slots (R172). -/
theorem exec_noteOn_resolvable {note oct : Nat} (hn : note ≤ 11) (ho : oct ≤ 8) (key : Key) (s : State) :
    exec (.noteOn key note oct) s = onSlots s (noteOnSlots key note oct) := by
  simp [exec, execNoteOn, resolvable, hn, ho]

/-- Settles O10: a step tests CURSOR first, and what visits the slots faults where they are not MAX_VOICES
(`onSlots_fault`). -/
theorem cursorAboveEndFaults : Obligations.CursorAboveEndFaults := fun _ =>
  ⟨step_of_cursor_above, fun hne =>
    ⟨fun key _ _ hn ho => (exec_noteOn_resolvable hn ho key _).trans (onSlots_fault hne _),
      fun _ => onSlots_fault hne _, fun _ => onSlots_fault hne _, fun _ => onSlots_fault hne _⟩⟩

/-! ## Edges that trigger a pass, and edges of a pass (R66, R221, R265) -/

/-- A sample asked for at an exhausted buffer triggers a pass (R221). -/
theorem edgeOutput_trigger {p : Pins} {s : State} (ho : p.outReady = true) (hc : s.cursor = 256) :
    edgeOutput p s = .next (s.setPass (some { time := s.now, left := s.cfg.passCycles })) := by
  simp [edgeOutput, ho, hc]

/-- An edge whose output port triggers a pass in the state `t` that its command port leaves. -/
theorem edge_triggers {p : Pins} {s t : State} (hr : p.rst = false) (ho : p.outReady = true) (hp : t.pass = none)
    (hcmd : edgeCommand p s = .next t) (hc : t.cursor = 256) : edge p s = .next { t with
      pass := some { time := t.now, left := t.cfg.passCycles }, now := t.now + BitVec.ofNat 64 p.tick.toNat,
      edges := t.edges + 1 } := by
  rw [edge_idle hr hp hcmd, edgeOutput_trigger ho hc, andThen_next, edgeTick_eq]
  rfl

/-- Settles O52: a command leaves NOW, CURSOR and BUSY as they were (`exec_frame`), so the pass latches the same
time with and without it. -/
theorem triggerEdgeAppliesTheCommandFirst : Obligations.TriggerEdgeAppliesTheCommandFirst := by
  intro p s hr ho hp hc
  dsimp only
  rw [← ofNat_tick]
  refine ⟨fun hv => edge_triggers hr ho hp (edgeCommand_none s hv) hc, fun t hv ht => ?_⟩
  have hcmd := (edgeCommand_accept hv hr hp).trans ht
  rw [exec_frame ht] at hcmd ⊢
  exact edge_triggers hr ho hp hcmd hc

/-- An edge without reset that meets a pass in progress is one edge of the pass and the tick (R230). -/
theorem edge_busy {p : Pins} {s : State} {f : PassInFlight} (hr : p.rst = false) (hp : s.pass = some f) :
    edge p s = andThen (edgePass f s) (edgeTick p) := by
  rw [edge_run hr, edgeCommand_busy hp, andThen_next, edgeEngine, hp]

/-- Settles O53: a reset edge reads no other pin, and an edge of a pass none but the tick (`edge_busy`). -/
theorem busyEdgesHoldThePorts : Obligations.BusyEdgesHoldThePorts := by
  intro p s f valid ready word hp
  refine ⟨by simp [cmdReady, State.busy, hp], by simp [outValid, State.busy, hp], ?_⟩
  rcases Bool.eq_false_or_eq_true p.rst with hr | hr
  · exact (edge_reset (p := { p with cmdValid := valid, cmdData := word, outReady := ready }) hr).trans
      (edge_reset hr).symm
  · exact (edge_busy (p := { p with cmdValid := valid, cmdData := word, outReady := ready }) hr hp).trans
      (edge_busy hr hp).symm

end Sys2Proof.Machine
end

section
/-! PROOFS. 30_encoding.md sections 1 and 2: the decoder opcode by opcode, the round trip through the encoder, the
reserved bits, and the rows of the opcode table. -/

namespace Sys2Proof.Machine

/-! ## The decoder, one equation an opcode (R81 to R88) -/

theorem decodeWord_nop {w : Word} (h : bits w 31 28 = 0) : decodeWord w = .nop := by simp [decodeWord, h]

theorem decodeWord_noteOn {w : Word} (h : bits w 31 28 = 1) :
    decodeWord w = .noteOn (BitVec.ofNat 8 (bits w 7 0)) (bits w 11 8) (bits w 15 12) := by simp [decodeWord, h]

theorem decodeWord_noteOff {w : Word} (h : bits w 31 28 = 2) :
    decodeWord w = .noteOff (BitVec.ofNat 8 (bits w 7 0)) := by simp [decodeWord, h]

theorem decodeWord_setDetune {w : Word} (h : bits w 31 28 = 3) : decodeWord w = .setDetune (bits w 16 0) := by
  simp [decodeWord, h]

theorem decodeWord_toggleWave {w : Word} (h : bits w 31 28 = 4) : decodeWord w = .toggleWave := by
  simp [decodeWord, h]

theorem decodeWord_setVolume {w : Word} (h : bits w 31 28 = 5) :
    decodeWord w = .setVolume (sext 17 (bits w 16 0)) := by simp [decodeWord, h]

theorem decodeWord_clrStatus {w : Word} (h : bits w 31 28 = 6) : decodeWord w = .clrStatus := by
  simp [decodeWord, h]

theorem decodeWord_illegal7 {w : Word} (h : bits w 31 28 = 7) : decodeWord w = .illegal7 := by simp [decodeWord, h]

theorem decodeWord_illegalHigh {w : Word} (h : 8 ≤ bits w 31 28) : decodeWord w = .illegalHigh := by
  have hlt := bits_op_lt w
  unfold decodeWord
  interval_cases bits w 31 28 <;> rfl

/-- What a word can decode to, with the opcode that makes it so. -/
theorem decodeWord_cases (w : Word) :
    (bits w 31 28 = 0 ∧ decodeWord w = .nop) ∨
    (bits w 31 28 = 1 ∧
      decodeWord w = .noteOn (BitVec.ofNat 8 (bits w 7 0)) (bits w 11 8) (bits w 15 12)) ∨
    (bits w 31 28 = 2 ∧ decodeWord w = .noteOff (BitVec.ofNat 8 (bits w 7 0))) ∨
    (bits w 31 28 = 3 ∧ decodeWord w = .setDetune (bits w 16 0)) ∨
    (bits w 31 28 = 4 ∧ decodeWord w = .toggleWave) ∨
    (bits w 31 28 = 5 ∧ decodeWord w = .setVolume (sext 17 (bits w 16 0))) ∨
    (bits w 31 28 = 6 ∧ decodeWord w = .clrStatus) ∨
    (bits w 31 28 = 7 ∧ decodeWord w = .illegal7) ∨
    (8 ≤ bits w 31 28 ∧ decodeWord w = .illegalHigh) := by
  by_cases h : 8 ≤ bits w 31 28
  · simp [h, decodeWord_illegalHigh h]
  · unfold decodeWord
    interval_cases bits w 31 28 <;> simp

/-! ## The round trip (R82 to R86) -/

/-- The canonical word of a well-formed instruction decodes to it. -/
theorem decodeWord_encode {i : Instr} (hi : i.wellFormed = true) : decodeWord (encode i) = i := by
  cases i with
  | nop | toggleWave | clrStatus | illegal7 | illegalHigh => rfl
  | noteOn key note oct =>
    rw [decodeWord_noteOn (Laws.Opcode.noteOn key note oct hi)]
    have hk := key.isLt
    simp only [Instr.wellFormed, Bool.and_eq_true, decide_eq_true_eq] at hi
    have hx : oct * 2 ^ 12 + note * 2 ^ 8 + key.toNat < 2 ^ 28 := by omega
    congr 1
    · apply BitVec.eq_of_toNat_eq
      rw [encode, bits_assembleWord_low (by decide) hx (by decide) (by decide), BitVec.toNat_ofNat]
      omega
    · rw [encode, bits_assembleWord_low (by decide) hx (by decide) (by decide)]
      omega
    · rw [encode, bits_assembleWord_low (by decide) hx (by decide) (by decide)]
      omega
  | noteOff key =>
    have hk := key.isLt
    rw [decodeWord_noteOff (Laws.Opcode.noteOff key hi), encode,
      bits_assembleWord_low (by decide) (by omega) (by decide) (by decide)]
    congr 1
    apply BitVec.eq_of_toNat_eq
    rw [BitVec.toNat_ofNat]
    omega
  | setDetune d =>
    rw [decodeWord_setDetune (Laws.Opcode.setDetune d hi), encode]
    simp only [Instr.wellFormed, decide_eq_true_eq] at hi
    rw [bits_assembleWord_low (by decide) (by omega) (by decide) (by decide)]
    congr 1
    omega
  | setVolume v =>
    rw [decodeWord_setVolume (Laws.Opcode.setVolume v hi), encode,
      bits_assembleWord_low (by decide) (by omega) (by decide) (by decide)]
    simp only [Instr.wellFormed, Bool.and_eq_true, decide_eq_true_eq] at hi
    rw [Nat.pow_zero, Nat.div_one, Nat.mod_eq_of_lt (by omega), sext_emod hi.1 hi.2]

/-- Settles O1: the word decodes to the instruction (`decodeWord_encode`), and its bytes give the word back. -/
theorem decodeInvertsEncode : Obligations.DecodeInvertsEncode := fun i hi =>
  ⟨decodeWord_encode hi, fun rest => by rw [decode_bytesOfWord, decodeWord_encode hi]⟩

/-! ## Reserved bits (R87) -/

/-- A field of a word, bit by bit. -/
theorem testBit_bits (w : Word) (hi lo j : Nat) :
    (bits w hi lo).testBit j = (decide (j < hi - lo + 1) && w.getLsbD (lo + j)) := by
  simp [bits, Nat.testBit_mod_two_pow, Nat.testBit_div_two_pow, BitVec.getLsbD, Nat.add_comm]

/-- Words that agree under a mask agree in every field the mask covers. -/
theorem bits_eq_of_and_eq {w w' m : Word} (h : w &&& m = w' &&& m) {hi lo : Nat} (hlo : lo ≤ hi)
    (hm : ∀ i ≤ hi, lo ≤ i → m.getLsbD i = true) : bits w hi lo = bits w' hi lo := by
  apply Nat.eq_of_testBit_eq
  intro j
  rw [testBit_bits, testBit_bits]
  by_cases hj : j < hi - lo + 1
  · have hbit := congrArg (·.getLsbD (lo + j)) h
    simp only [BitVec.getLsbD_and, hm (lo + j) (by omega) (by omega), Bool.and_true] at hbit
    rw [hbit]
  · simp [hj]

/-- Every command uses its opcode field (R80). -/
theorem usedBits_op (op : Nat) : ∀ i ≤ 31, 28 ≤ i → (usedBits op).getLsbD i = true := by
  unfold usedBits
  split <;> decide

/-- Words that differ only in reserved bits decode alike: their opcodes agree, and so do the fields that opcode
has. -/
theorem decodeWord_eq_of_usedBits {w w' : Word}
    (h : w &&& usedBits (bits w 31 28) = w' &&& usedBits (bits w 31 28)) : decodeWord w = decodeWord w' := by
  have hop : bits w 31 28 = bits w' 31 28 := bits_eq_of_and_eq h (by decide) (usedBits_op _)
  rcases decodeWord_cases w with ⟨ho, hd⟩ | ⟨ho, hd⟩ | ⟨ho, hd⟩ | ⟨ho, hd⟩ | ⟨ho, hd⟩ | ⟨ho, hd⟩ | ⟨ho, hd⟩ |
    ⟨ho, hd⟩ | ⟨ho, hd⟩ <;> rw [hd]
  · rw [decodeWord_nop (hop ▸ ho)]
  · rw [ho] at h
    rw [decodeWord_noteOn (hop ▸ ho), bits_eq_of_and_eq h (hi := 7) (lo := 0) (by decide) (by decide),
      bits_eq_of_and_eq h (hi := 11) (lo := 8) (by decide) (by decide),
      bits_eq_of_and_eq h (hi := 15) (lo := 12) (by decide) (by decide)]
  · rw [ho] at h
    rw [decodeWord_noteOff (hop ▸ ho), bits_eq_of_and_eq h (hi := 7) (lo := 0) (by decide) (by decide)]
  · rw [ho] at h
    rw [decodeWord_setDetune (hop ▸ ho), bits_eq_of_and_eq h (hi := 16) (lo := 0) (by decide) (by decide)]
  · rw [decodeWord_toggleWave (hop ▸ ho)]
  · rw [ho] at h
    rw [decodeWord_setVolume (hop ▸ ho), bits_eq_of_and_eq h (hi := 16) (lo := 0) (by decide) (by decide)]
  · rw [decodeWord_clrStatus (hop ▸ ho)]
  · rw [decodeWord_illegal7 (hop ▸ ho)]
  · rw [decodeWord_illegalHigh (hop ▸ ho)]

/-- Settles O2: the transaction of a command reads its word through the decoder alone. -/
theorem reservedBitsAreIgnored : Obligations.ReservedBitsAreIgnored := fun _ _ h =>
  have hd := decodeWord_eq_of_usedBits h
  ⟨hd, fun s => by rw [transact, transact, hd]⟩

/-! ## The rows of the opcode table (R81, R89) -/

/-- A mask of the bits from `k` on clears the bits below. -/
theorem toNat_and_highMask (w : Word) (k : Nat) :
    (w &&& (BitVec.allOnes 32 <<< k)).toNat = w.toNat / 2 ^ k * 2 ^ k := by
  rw [← BitVec.shiftLeft_ushiftRight, BitVec.toNat_shiftLeft, BitVec.toNat_ushiftRight, Nat.shiftLeft_eq,
    Nat.shiftRight_eq_div_pow]
  exact Nat.mod_eq_of_lt ((Nat.div_mul_le_self ..).trans_lt w.isLt)

/-- Each of the first eight rows fixes the four bits of the opcode, to its own place in the table. -/
theorem opcodeRows_low : ∀ k < 8, ∀ r ∈ opcodeRows[k]?,
    r.mask = BitVec.allOnes 32 <<< 28 ∧ r.value.toNat = k * 2 ^ 28 := by decide

/-- The last row fixes bit 31 alone. -/
theorem opcodeRows_last : ∀ r ∈ opcodeRows[8]?, r.mask = BitVec.allOnes 32 <<< 31 ∧ r.value.toNat = 2 ^ 31 := by
  decide

/-- A row accepts exactly the words with its opcode, and the last row those with 8 or more. -/
theorem accepts_iff {k : Nat} {r : Row} (hr : opcodeRows[k]? = some r) (w : Word) :
    r.accepts w = true ↔ k = min (bits w 31 28) 8 := by
  obtain ⟨hk, -⟩ := List.getElem?_eq_some_iff.mp hr
  have hk9 : k < 9 := hk
  rw [Row.accepts, beq_iff_eq, BitVec.toNat_eq, bits_op]
  obtain hlt | rfl : k < 8 ∨ k = 8 := by omega
  · obtain ⟨hmask, hvalue⟩ := opcodeRows_low k hlt r hr
    rw [hmask, hvalue, toNat_and_highMask]
    omega
  · obtain ⟨hmask, hvalue⟩ := opcodeRows_last r hr
    have := w.isLt
    rw [hmask, hvalue, toNat_and_highMask]
    omega

/-- The decoder answers an instruction of the row that accepts the word. -/
theorem rowIndex_decodeWord (w : Word) : (decodeWord w).rowIndex = min (bits w 31 28) 8 := by
  rcases decodeWord_cases w with ⟨ho, hd⟩ | ⟨ho, hd⟩ | ⟨ho, hd⟩ | ⟨ho, hd⟩ | ⟨ho, hd⟩ | ⟨ho, hd⟩ | ⟨ho, hd⟩ |
    ⟨ho, hd⟩ | ⟨ho, hd⟩ <;> simp [hd, ho, Instr.rowIndex]

/-- The decoder answers a well-formed instruction: its operands are fields of the word (R89). -/
theorem wellFormed_decodeWord (w : Word) : (decodeWord w).wellFormed = true := by
  rcases decodeWord_cases w with ⟨-, hd⟩ | ⟨-, hd⟩ | ⟨-, hd⟩ | ⟨-, hd⟩ | ⟨-, hd⟩ | ⟨-, hd⟩ | ⟨-, hd⟩ |
    ⟨-, hd⟩ | ⟨-, hd⟩ <;> rw [hd]
  · rfl
  · simpa [Instr.wellFormed] using
      And.intro (Nat.le_of_lt_succ (bits_lt w 11 8)) (Nat.le_of_lt_succ (bits_lt w 15 12))
  · rfl
  · simpa [Instr.wellFormed] using Nat.le_of_lt_succ (bits_lt w 16 0)
  · rfl
  · simpa [Instr.wellFormed] using sext17_bounds (bits_lt w 16 0)
  all_goals rfl

/-- Settles O3: the row is the opcode's, the last one standing for 8 and more. -/
theorem everyWordBelongsToOneRow : Obligations.EveryWordBelongsToOneRow := by
  intro w
  have hk : min (bits w 31 28) 8 < opcodeRows.length := show _ < 9 by omega
  have hrow := List.getElem?_eq_getElem hk
  exact ⟨_, hk, ⟨_, hrow, (accepts_iff hrow w).mpr rfl⟩, fun j r hr => (accepts_iff hr w).mp,
    rowIndex_decodeWord w, wellFormed_decodeWord w⟩

/-- Settles O4: each word is evaluated. -/
theorem writtenWordsDecode : Obligations.WrittenWordsDecode := by
  unfold Obligations.WrittenWordsDecode
  decide

end Sys2Proof.Machine
end

section
/-! PROOFS. 43_commands.md section 2 and 30_encoding.md section 3: NOTE_ON, NOTE_OFF, SET_VOLUME and the illegal
opcodes with their fields, and the handshakes of the ports. -/

namespace Sys2Proof.Machine

/-! ## NOTE_ON in each of its cases (R172) -/

/-- An unresolvable pitch class changes nothing. -/
theorem exec_noteOn_unresolvable {note oct : Nat} (h : 11 < note ∨ 8 < oct) (key : Key) (s : State) :
    exec (.noteOn key note oct) s = .next s := by
  have hr : resolvable note oct = false := by
    simp only [resolvable, Bool.and_eq_false_iff, decide_eq_false_iff_not]
    omega
  simp [exec, execNoteOn, hr]

/-- An active key changes nothing. -/
theorem exec_noteOn_active {s : State} {key : Key} {i : Nat} (hl : s.slots.length = s.cfg.maxVoices)
    (hk : findKey s.slots key = some i) (note oct : Nat) : exec (.noteOn key note oct) s = .next s := by
  by_cases h : 11 < note ∨ 8 < oct
  · exact exec_noteOn_unresolvable h key s
  · rw [exec_noteOn_resolvable (by omega) (by omega), onSlots_eq hl, noteOnSlots, hk]

section
variable {s : State} {key : Key} {note oct : Nat} (hn : note ≤ 11) (ho : oct ≤ 8)
  (hl : s.slots.length = s.cfg.maxVoices) (hk : findKey s.slots key = none)
include hn ho hl hk

/-- With every slot occupied ERR_FULL is set. -/
theorem exec_noteOn_full (ha : allocSlot s.slots = none) :
    exec (.noteOn key note oct) s = .next (s.setFlag .errFull) := by
  rw [exec_noteOn_resolvable hn ho, onSlots_eq hl, noteOnSlots, hk, ha]

/-- Otherwise a voice with the pitch class's base tuning word starts in the allocated slot. -/
theorem exec_noteOn_starts {i : Nat} {base : Word} (ha : allocSlot s.slots = some i)
    (hb : noteFtw s.cfg.sampleRate oct note = some base) :
    exec (.noteOn key note oct) s = .next (s.setSlots (s.slots.set i (some (newVoice s key base)))) := by
  rw [exec_noteOn_resolvable hn ho, onSlots_eq hl, noteOnSlots, hk, ha]
  simp only [startVoice, hb]

end

/-- Settles O15: one lemma for each case, and the new voice's fields are those of `newVoice`. -/
theorem noteOnStartsAVoice : Obligations.NoteOnStartsAVoice := by
  intro s key note oct hc
  refine ⟨fun w => decodeWord_noteOn, fun h => exec_noteOn_unresolvable h key s, fun hl v hv hvk => ?_,
    fun hn ho hl hfree => ?_⟩
  · cases hk : findKey s.slots key with
    | none => exact absurd hvk (findKey_none.mp hk v hv)
    | some i => exact exec_noteOn_active hl hk note oct
  · have hk := findKey_none.mpr hfree
    refine ⟨fun hfull => exec_noteOn_full hn ho hl hk (allocSlot_none.mpr hfull), fun i hi hlow => ?_⟩
    obtain ⟨base, hb⟩ := noteFtw_isSome hc.1 ho hn
    exact ⟨newVoice s key base, exec_noteOn_starts hn ho hl hk (allocSlot_of_lowest hi hlow) hb, hb, rfl,
      tuneBank_length .., fun k => tuneBank_getElem? s.nsamp base s.detune, rfl, rfl, rfl, rfl⟩

/-! ## NOTE_OFF in each of its cases (R173) -/

/-- An inactive key changes nothing. -/
theorem exec_noteOff_inactive {s : State} {key : Key} (hl : s.slots.length = s.cfg.maxVoices)
    (hk : findKey s.slots key = none) : exec (.noteOff key) s = .next s := by
  rw [exec, execNoteOff, onSlots_eq hl, noteOffSlots, hk]

/-- An active key triggers the release of its voice. -/
theorem exec_noteOff_active {s : State} {key : Key} {i : Nat} {v : Voice} (hl : s.slots.length = s.cfg.maxVoices)
    (hk : findKey s.slots key = some i) (hi : s.slots[i]? = some (some v)) :
    exec (.noteOff key) s = .next (s.setSlots (s.slots.set i (some (v.triggerRelease s.now)))) := by
  rw [exec, execNoteOff, onSlots_eq hl, noteOffSlots, hk]
  simp only [modifyVoice_eq_set hi]

/-- Settles O16: the one slot with the key is the one FindKey answers, and trigger_release has two cases
(`triggerRelease_cases`). -/
theorem noteOffReleasesTheVoice : Obligations.NoteOffReleasesTheVoice := by
  intro s key hl
  refine ⟨fun w => decodeWord_noteOff, fun h => exec_noteOff_inactive hl (findKey_none.mpr h),
    fun i v hi hkey honly => ?_⟩
  rw [exec_noteOff_active hl (findKey_of_unique hi hkey honly) hi]
  rcases triggerRelease_cases s.now v with ⟨hstage, hv⟩ | ⟨hrel, hfin, hv⟩ <;> rw [hv]
  · obtain ⟨hlt, hget⟩ := List.getElem?_eq_some_iff.mp hi
    refine ⟨fun _ => ?_, fun h => ?_⟩
    · rw [← hget, List.set_getElem_self, setSlots_self]
    · rcases hstage with hs | hs <;> simp [hs] at h
  · exact ⟨fun h => absurd h (by simp [hrel, hfin]), fun _ => rfl⟩

/-! ## SET_VOLUME (R176) -/

/-- The signed 17-bit field, from its sign bit (R85). -/
theorem sext17_bits (w : Word) :
    sext 17 (bits w 16 0) = if bits w 16 16 = 1 then (bits w 16 0 : Int) - 131072 else bits w 16 0 := by
  simp only [sext, bits]
  split_ifs <;> omega

/-- The clamped volume fits in VOLUME's 16 bits. -/
theorem clampVolume_toNat (v : Int) : ((clampVolume v).toNat : Int) = clamp v 0 32768 := by
  obtain ⟨h0, h1⟩ := clamp_mem (v := v) (lo := 0) (hi := 32768) (by decide)
  rw [clampVolume, BitVec.toNat_ofInt]
  omega

/-- Settles O20: VOLUME's value is the clamped operand (`clampVolume_toNat`). -/
theorem setVolumeClamps : Obligations.SetVolumeClamps := by
  refine ⟨fun w h => by rw [decodeWord_setVolume h, sext17_bits], fun s v =>
    ⟨s.setVolume (clampVolume v), rfl, rfl, ?_⟩⟩
  have hv := clampVolume_toNat v
  rw [setVolume_volume]
  unfold clamp at hv
  refine ⟨fun h => ?_, fun h0 h1 => ?_, fun h => ?_⟩ <;> split_ifs at hv <;> omega

/-! ## The illegal opcodes (R178) -/

/-- Settles O22: opcode 7 is the first illegal instruction and every higher one the second. -/
theorem illegalOpcodeSetsItsFlag : Obligations.IllegalOpcodeSetsItsFlag := by
  refine fun s => ⟨fun w hw => ?_, exec_illegal7 s, exec_illegalHigh s⟩
  rcases Nat.eq_or_lt_of_le hw with h7 | h8
  · rw [decodeWord_illegal7 h7.symm]
    exact exec_illegal7 s
  · rw [decodeWord_illegalHigh h8]
    exact exec_illegalHigh s

/-! ## The handshakes (R91, R92) -/

/-- Settles O49: the outputs are the conjunctions R91 and R92 write, and BUF has an entry at every CURSOR below
256. -/
theorem handshakesFollowTheState : Obligations.HandshakesFollowTheState := by
  intro p s
  have hvalid : outValid p s = true ↔ s.cursor.toNat < 256 ∧ s.busy = false ∧ p.rst = false := by
    simp [outValid, and_assoc]
  refine ⟨by simp [cmdReady], hvalid, fun hv => ?_, outData_idle, fun _ => rfl⟩
  have hlt := (hvalid.mp hv).1
  obtain ⟨x, hx⟩ := Option.isSome_iff_exists.mp ((bufRead_isSome s _).trans (decide_eq_true hlt))
  rw [outData_of_read hv hx, hx]

end Sys2Proof.Machine
end

section
/-! PROOFS. 40_envelope.md: a release is triggered once, the update in each stage below its duration and from it on, and
the shapes of the ramps. -/

namespace Sys2Proof.Machine

/-! ## NOTE_OFF of a released voice (R103) -/

/-- A released voice is in Release or Finished, which trigger_release leaves alone. -/
@[simp] theorem triggerRelease_triggerRelease (now later : Ticks) (v : Voice) :
    (v.triggerRelease now).triggerRelease later = v.triggerRelease now := by
  have hstage : (v.triggerRelease now).stage = .release ∨ (v.triggerRelease now).stage = .finished := by
    rcases triggerRelease_cases now v with ⟨h, hv⟩ | ⟨-, -, hv⟩ <;> rw [hv]
    · exact h
    · exact .inl rfl
  rcases triggerRelease_cases later (v.triggerRelease now) with ⟨-, hv⟩ | ⟨hrel, hfin, -⟩
  · exact hv
  · exact absurd hstage (not_or.mpr ⟨hrel, hfin⟩)

/-- `FindKey` reads the keys only. -/
theorem findKey_modifyVoice {f : Voice → Voice} (hf : ∀ v, (f v).key = v.key) (l : List Slot) (i : Nat) (key : Key) :
    findKey (modifyVoice l i f) key = findKey l key := by
  have hslot (a : Slot) : Slot.hasKey key (a.map f) = Slot.hasKey key a := by cases a <;> simp [Slot.hasKey, hf]
  unfold findKey modifyVoice
  induction l generalizing i with
  | nil => simp
  | cons a l ih => cases i <;> simp [List.findIdx?_cons, hslot, ih]

/-- NOTE_OFF of a voice that trigger_release leaves alone changes nothing. -/
theorem exec_noteOff_released {s : State} {key : Key} {i : Nat} {v : Voice} (hl : s.slots.length = s.cfg.maxVoices)
    (hk : findKey s.slots key = some i) (hi : s.slots[i]? = some (some v)) (hv : v.triggerRelease s.now = v) :
    exec (.noteOff key) s = .next s := by
  obtain ⟨hlt, hget⟩ := List.getElem?_eq_some_iff.mp hi
  rw [exec_noteOff_active hl hk hi, hv, ← hget, List.set_getElem_self, setSlots_self]

/-- Settles O17: FindKey answers the same slot again, and its voice is released already. -/
theorem releaseIsIdempotent : Obligations.ReleaseIsIdempotent := by
  intro s t key k h
  obtain ⟨hl, ⟨hk, rfl⟩ | ⟨i, hk, rfl⟩⟩ := execNoteOff_cases h
  · exact exec_noteOff_inactive hl hk
  · obtain ⟨v, hi, -, -⟩ := findKey_some hk
    refine exec_noteOff_released (i := i) (v := v.triggerRelease s.now) ((modifyVoice_length ..).trans hl) ?_ ?_
      (triggerRelease_triggerRelease ..)
    · exact (findKey_modifyVoice (triggerRelease_key s.now) ..).trans hk
    · simp [modifyVoice_getElem?, hi]

/-! ## The update in each stage (R104 to R109) -/

section
variable {c : Config} {t : Ticks} {v : Voice}

theorem update_attack_below (hs : v.stage = .attack) (he : v.elapsed t < c.attackT) :
    v.update c t = { v with amp := toGain (attackAmp c.attackT (v.elapsed t)) } := by
  simp only [Voice.update, hs, Voice.updateAttack, if_neg he.not_ge]

theorem update_attack_done (hs : v.stage = .attack) (he : c.attackT ≤ v.elapsed t) :
    v.update c t = { v with stage := .decay, start := t, amp := toGain ONE } := by
  simp only [Voice.update, hs, Voice.updateAttack, if_pos he]

theorem update_decay_below (hs : v.stage = .decay) (he : v.elapsed t < c.decayT) :
    v.update c t = { v with amp := toGain (decayAmp c.decayT c.sustainLvl (v.elapsed t)) } := by
  simp only [Voice.update, hs, Voice.updateDecay, if_neg he.not_ge]

theorem update_decay_done (hs : v.stage = .decay) (he : c.decayT ≤ v.elapsed t) :
    v.update c t = { v with stage := .sustain, start := t, amp := toGain c.sustainLvl } := by
  simp only [Voice.update, hs, Voice.updateDecay, if_pos he]

theorem update_sustain (hs : v.stage = .sustain) : v.update c t = { v with amp := toGain c.sustainLvl } := by
  simp only [Voice.update, hs, Voice.updateSustain]

theorem update_release_below (hs : v.stage = .release) (he : v.elapsed t < c.releaseT) :
    v.update c t = { v with amp := toGain (releaseAmp c.releaseT v.r0.toNat (v.elapsed t)) } := by
  simp only [Voice.update, hs, Voice.updateRelease, if_neg he.not_ge]

theorem update_release_done (hs : v.stage = .release) (he : c.releaseT ≤ v.elapsed t) :
    v.update c t = { v with stage := .finished, start := t, amp := 0 } := by
  simp only [Voice.update, hs, Voice.updateRelease, if_pos he]

theorem update_finished (hs : v.stage = .finished) : v.update c t = { v with amp := 0 } := by
  simp only [Voice.update, hs, Voice.updateFinished]

/-- An update writes STAGE, START and AMP only (R104). -/
theorem update_frame (c : Config) (t : Ticks) (v : Voice) : v.update c t =
    { v with stage := (v.update c t).stage, start := (v.update c t).start, amp := (v.update c t).amp } := by
  rw [← update_key c t v, ← update_ftwBase c t v, ← update_oscs c t v, ← update_r0 c t v]

/-- AMP on the Attack ramp. -/
theorem update_attack_amp (hs : v.stage = .attack) (he : v.elapsed t < c.attackT) :
    (v.update c t).amp.toNat = attackAmp c.attackT (v.elapsed t) := by
  rw [update_attack_below hs he, toGain_toNat (attackAmp_le ..)]

/-- AMP on the Decay ramp. -/
theorem update_decay_amp (hc : c.sustainLvl ≤ ONE) (hs : v.stage = .decay) (he : v.elapsed t < c.decayT) :
    (v.update c t).amp.toNat = decayAmp c.decayT c.sustainLvl (v.elapsed t) := by
  rw [update_decay_below hs he, toGain_toNat (decayAmp_le _ _ hc)]

/-- AMP on the Release ramp: it starts from R0, so it fits whatever R0 is. -/
theorem update_release_amp (hs : v.stage = .release) (he : v.elapsed t < c.releaseT) :
    (v.update c t).amp.toNat = releaseAmp c.releaseT v.r0.toNat (v.elapsed t) := by
  rw [update_release_below hs he]
  exact Nat.mod_eq_of_lt ((releaseAmp_le ..).trans_lt v.r0.isLt)

end

/-- The Decay ramp over the integers, where its difference may fall below 0 (R106). -/
theorem decayAmp_int (dec sus e : Nat) :
    (decayAmp dec sus e : Int) = max (sus : Int) (32768 - ((e * (32768 - sus) / dec : Nat) : Int)) := by
  simp only [decayAmp, ONE]
  omega

/-- SUSTAIN_LVL is an amplitude in a legal configuration (R5). -/
theorem sustainLvl_le_one {c : Config} (hc : c.Legal) : c.sustainLvl ≤ ONE := by
  obtain ⟨-, -, -, -, -, -, h, -⟩ := hc
  exact h

/-- Settles O27: one equation of `update` for each stage and side of its duration. -/
theorem updateFollowsTheStage : Obligations.UpdateFollowsTheStage := by
  intro c t v hc
  have hsus := sustainLvl_le_one hc
  refine ⟨update_frame c t v, fun hs => ⟨fun he => ?_, fun he => ?_⟩, fun hs => ⟨fun he => ?_, fun he => ?_⟩,
    fun hs => ?_, fun hs => ⟨fun he => ?_, fun he => ?_⟩, fun hs => ?_⟩
  · rw [update_attack_done hs he]
    exact ⟨rfl, rfl, rfl⟩
  · refine ⟨?_, ?_, update_attack_amp hs he⟩ <;> simp [update_attack_below hs he, hs]
  · rw [update_decay_done hs he]
    exact ⟨rfl, rfl, toGain_toNat hsus⟩
  · have hamp := (congrArg Nat.cast (update_decay_amp hsus hs he)).trans (decayAmp_int ..)
    refine ⟨?_, ?_, hamp⟩ <;> simp [update_decay_below hs he, hs]
  · rw [update_sustain hs]
    exact ⟨hs, rfl, toGain_toNat hsus⟩
  · rw [update_release_done hs he]
    exact ⟨rfl, rfl, rfl⟩
  · refine ⟨?_, ?_, update_release_amp hs he⟩ <;> simp [update_release_below hs he, hs]
  · rw [update_finished hs]
    exact ⟨hs, rfl, rfl⟩

/-! ## The ramps (R105, R106, R112) -/

/-- What a ramp of height `w` over `d` ticks has covered after `e` of them is at least one more a quantum on. -/
theorem covered_lt_of_quantum {d w e1 e2 : Nat} (hd : 0 < d) (hq : d ≤ (e2 - e1) * w) : e1 * w / d < e2 * w / d := by
  have hdist : (e2 - e1) * w = e2 * w - e1 * w := Nat.sub_mul ..
  calc e1 * w / d < e1 * w / d + 1 := Nat.lt_succ_self _
    _ = (e1 * w + d) / d := (Nat.add_div_right _ hd).symm
    _ ≤ e2 * w / d := Nat.div_le_div_right (by omega)

/-- Before its duration a ramp has covered at most its height. -/
theorem covered_le {d e : Nat} (w : Nat) (he : e < d) : e * w / d ≤ w :=
  Nat.div_le_of_le_mul (Nat.mul_le_mul_right w he.le)

/-- Below the duration the bound ONE of the Attack ramp does not act. -/
theorem attackAmp_eq {atk e : Nat} (he : e < atk) : attackAmp atk e = e * ONE / atk :=
  Nat.min_eq_right (covered_le ONE he)

/-- Below the duration the bound SUSTAIN_LVL of the Decay ramp does not act. -/
theorem decayAmp_eq {dec sus e : Nat} (hs : sus ≤ ONE) (he : e < dec) :
    decayAmp dec sus e = ONE - e * (ONE - sus) / dec := by
  have := covered_le (ONE - sus) he
  exact Nat.max_eq_right (by omega)

/-- The Attack ramp does not fall. -/
theorem attackAmp_mono {atk e1 e2 : Nat} (h : e1 ≤ e2) : attackAmp atk e1 ≤ attackAmp atk e2 := by
  unfold attackAmp
  gcongr

/-- The Attack ramp rises over a quantum. -/
theorem attackAmp_lt {atk e1 e2 : Nat} (h : e1 < e2) (he : e2 < atk) (hq : atk ≤ (e2 - e1) * ONE) :
    attackAmp atk e1 < attackAmp atk e2 := by
  rw [attackAmp_eq (h.trans he), attackAmp_eq he]
  exact covered_lt_of_quantum (by omega) hq

/-- The Decay ramp does not rise. -/
theorem decayAmp_antitone {dec sus e1 e2 : Nat} (h : e1 ≤ e2) : decayAmp dec sus e2 ≤ decayAmp dec sus e1 := by
  unfold decayAmp
  gcongr

/-- The Decay ramp falls over a quantum. -/
theorem decayAmp_lt {dec sus e1 e2 : Nat} (hs : sus ≤ ONE) (h : e1 < e2) (he : e2 < dec)
    (hq : dec ≤ (e2 - e1) * (ONE - sus)) : decayAmp dec sus e2 < decayAmp dec sus e1 := by
  have hlt := covered_lt_of_quantum (by omega) hq
  have hle := covered_le (ONE - sus) he
  rw [decayAmp_eq hs (h.trans he), decayAmp_eq hs he]
  omega

/-- A Decay to ONE is constant. -/
theorem decayAmp_one (dec e : Nat) : decayAmp dec ONE e = ONE := Nat.max_eq_left (Nat.sub_le ..)

/-- Settles O29: below the duration AMP is the stage's ramp, and from it on the stage changes. -/
theorem envelopeRampsAreMonotone : Obligations.EnvelopeRampsAreMonotone := by
  intro c v t1 t2 hc
  have hsus := sustainLvl_le_one hc
  refine ⟨fun hs h he => ?_, fun hs _ h he => ?_, fun hs hone h he => ?_,
    fun hs _ he => by rw [update_attack_done hs he], fun hs _ he => by rw [update_decay_done hs he]⟩
  · rw [update_attack_amp hs (h.trans he), update_attack_amp hs he]
    exact ⟨attackAmp_mono h.le, attackAmp_lt h he⟩
  · rw [update_decay_amp hsus hs (h.trans he), update_decay_amp hsus hs he]
    exact ⟨decayAmp_antitone h.le, decayAmp_lt hsus h he⟩
  · rw [update_decay_amp hsus hs (h.trans he), update_decay_amp hsus hs he, hone]
    exact ⟨decayAmp_one .., decayAmp_one ..⟩

/-! ## Durations of 0 (R110) -/

/-- Settles O28: every elapsed time has reached a duration of 0. -/
theorem zeroLengthStagesAreInstant : Obligations.ZeroLengthStagesAreInstant := by
  intro c t t' v hc
  have hsus := sustainLvl_le_one hc
  have reached {d : Nat} (hd : d = 0) (time : Ticks) (w : Voice) : d ≤ w.elapsed time := hd ▸ Nat.zero_le _
  refine ⟨fun ha hs => ?_, fun hd hs => ?_, fun hr hs => ?_, fun ha hd hs => ?_⟩
  · rw [update_attack_done hs (reached ha t v)]
    exact ⟨rfl, rfl⟩
  · rw [update_decay_done hs (reached hd t v)]
    exact ⟨rfl, toGain_toNat hsus⟩
  · rw [update_release_done hs (reached hr t v)]
    exact ⟨rfl, rfl⟩
  · rw [update_attack_done hs (reached ha t v), update_decay_done rfl (reached hd t' _)]
    exact ⟨rfl, toGain_toNat hsus⟩

end Sys2Proof.Machine
end

section
/-! PROOFS. 41_waveform.md: the toggle order, the shaped waveforms and the sine from the phase, the range of every
waveform, and what a WhiteNoise pass evaluates. -/

namespace Sys2Proof.Machine

/-! ## TOGGLE_WAVE (R138, R175) -/

/-- The successor of a kind is the next code, 5 going to 0 (R138). -/
theorem code_succ (k : WaveKind) : k.succ.code = if k.code = 5 then 0 else k.code + 1 := by cases k <;> rfl

/-- Six successors give the kind back (R138). -/
theorem succ_succ_succ_succ_succ_succ (k : WaveKind) : k.succ.succ.succ.succ.succ.succ = k := by cases k <;> rfl

/-- Settles O19: each toggle writes WAVE's successor and nothing else. -/
theorem toggleWaveCycles : Obligations.ToggleWaveCycles := by
  refine fun s => ⟨fun w => decodeWord_toggleWave, ⟨s.setWave s.wave.succ, rfl, rfl, code_succ s.wave⟩, ?_⟩
  simp only [exec_toggleWave, andThen_next, setWave_wave, succ_succ_succ_succ_succ_succ]
  rfl

/-! ## Saw, Square, Pulse and Triangle (R133 to R136) -/

/-- The top sixteen phase bits, by division. -/
theorem bits_top_sixteen (ph : Word) : bits ph 31 16 = ph.toNat / 65536 := by
  have := ph.isLt
  simp only [bits]
  omega

/-- Bit 31 says whether the phase is in the second half of the cycle. -/
theorem msb_iff_top_sixteen (ph : Word) : ph.msb = true ↔ ¬ ph.toNat / 65536 < 32768 := by
  rw [BitVec.msb_eq_decide, decide_eq_true_eq]
  omega

/-- Bits 31 and 30 are both 0 in the first quarter of the cycle. -/
theorem top_two_clear_iff_top_sixteen (ph : Word) :
    ph.getLsbD 31 = false ∧ ph.getLsbD 30 = false ↔ ph.toNat / 65536 < 16384 := by
  have := ph.isLt
  simp only [BitVec.getLsbD, Nat.testBit_eq_decide_div_mod_eq, decide_eq_false_iff_not]
  omega

/-- Square from bit 31 (R134). -/
theorem waveSquare_eq_msb (ph : Word) : waveSquare (ph.toNat / 65536) = if ph.msb then -32768 else 32767 := by
  rw [waveSquare, ← ite_not]
  exact if_congr (msb_iff_top_sixteen ph).symm rfl rfl

/-- Pulse from bits 31 and 30 (R135). -/
theorem wavePulse_eq_top_two (ph : Word) : wavePulse (ph.toNat / 65536) =
    if ph.getLsbD 31 = false ∧ ph.getLsbD 30 = false then 32767 else -32768 :=
  if_congr (top_two_clear_iff_top_sixteen ph).symm rfl rfl

/-- The rising first quarter of Triangle (R136). -/
theorem waveTriangle_first {h : Nat} (h1 : h < 16384) : waveTriangle h = 2 * (h : Int) := if_pos h1

/-- The falling half of Triangle, its peak held to 32767 (R136). -/
theorem waveTriangle_falling {h : Nat} (h1 : 16384 ≤ h) (h2 : h < 49152) :
    waveTriangle h = min 32767 (65536 - 2 * (h : Int)) := by
  rw [waveTriangle, if_neg (by omega), if_pos h2]

/-- The rising last quarter of Triangle (R136). -/
theorem waveTriangle_last {h : Nat} (h1 : 49152 ≤ h) : waveTriangle h = 2 * (h : Int) - 131072 := by
  rw [waveTriangle, if_neg (by omega), if_neg (by omega)]

/-- Settles O31: each waveform is its formula of the top sixteen phase bits, and Triangle is taken part by part. -/
theorem shapedWavesFollowThePhase : Obligations.ShapedWavesFollowThePhase := by
  intro m ph n
  simp only [waveGen, bits_top_sixteen, Prod.mk.injEq, and_true]
  refine ⟨rfl, rfl, waveSquare_eq_msb ph, rfl, wavePulse_eq_top_two ph, waveTriangle_first, fun h => ?_,
    fun h1 h2 => ?_, waveTriangle_last⟩
  · rw [h]
    rfl
  · rw [waveTriangle_falling h1.le h2]
    omega

/-! ## Sine in its quarter waves (R131, R132) -/

section
variable {ph ph' : Word} {j : Fin 257}

/-- The top ten phase bits name one of 1024 steps of the cycle. -/
theorem bits_top_ten_lt (ph : Word) : bits ph 31 22 < 1024 := bits_lt ph 31 22

/-- The top ten phase bits, by division. -/
theorem bits_top_ten (ph : Word) : bits ph 31 22 = ph.toNat / 4194304 := by
  have := ph.isLt
  simp only [bits]
  omega

/-- Sine reads the top ten phase bits only. -/
theorem waveSine_congr (h : bits ph 31 22 = bits ph' 31 22) : waveSine ph = waveSine ph' := by
  simp only [waveSine, h]

/-- The first quarter wave goes up the ROM. -/
theorem waveSine_first (hk : bits ph 31 22 < 256) (hj : j.val = bits ph 31 22) : waveSine ph = sineQ j := by
  have hdiv : bits ph 31 22 / 256 = 0 := by omega
  have hmod : bits ph 31 22 % 256 = j.val := by omega
  simp only [waveSine, sineUp, hdiv, hmod]

/-- The second goes down it. -/
theorem waveSine_second (h1 : 256 ≤ bits ph 31 22) (h2 : bits ph 31 22 < 512) (hj : j.val + bits ph 31 22 = 512) :
    waveSine ph = sineQ j := by
  have hdiv : bits ph 31 22 / 256 = 1 := by omega
  have hmod : 256 - bits ph 31 22 % 256 = j.val := by omega
  simp only [waveSine, sineDown, hdiv, hmod]

/-- The third is the first negated. -/
theorem waveSine_third (hk : bits ph 31 22 < 768) (hj : j.val + 512 = bits ph 31 22) : waveSine ph = -sineQ j := by
  have hdiv : bits ph 31 22 / 256 = 2 := by omega
  have hmod : bits ph 31 22 % 256 = j.val := by omega
  simp only [waveSine, sineUp, hdiv, hmod]

/-- The fourth is the second negated. -/
theorem waveSine_fourth (hk : 768 ≤ bits ph 31 22) (hj : j.val + bits ph 31 22 = 1024) :
    waveSine ph = -sineQ j := by
  have hlt := bits_top_ten_lt ph
  have hdiv : bits ph 31 22 / 256 = 3 := by omega
  have hmod : 256 - bits ph 31 22 % 256 = j.val := by omega
  simp only [waveSine, sineDown, hdiv, hmod]

/-- Sine is an entry of the ROM or the negation of one. -/
theorem waveSine_mem_rom (ph : Word) : ∃ j, waveSine ph = sineQ j ∨ waveSine ph = -sineQ j := by
  have hlt := bits_top_ten_lt ph
  rcases lt_or_ge (bits ph 31 22) 256 with h1 | h1
  · exact ⟨⟨bits ph 31 22, by omega⟩, .inl (waveSine_first h1 rfl)⟩
  rcases lt_or_ge (bits ph 31 22) 512 with h2 | h2
  · exact ⟨⟨512 - bits ph 31 22, by omega⟩, .inl (waveSine_second h1 h2 (Nat.sub_add_cancel h2.le))⟩
  rcases lt_or_ge (bits ph 31 22) 768 with h3 | h3
  · exact ⟨⟨bits ph 31 22 - 512, by omega⟩, .inr (waveSine_third h3 (Nat.sub_add_cancel h2))⟩
  · exact ⟨⟨1024 - bits ph 31 22, by omega⟩, .inr (waveSine_fourth h3 (Nat.sub_add_cancel hlt.le))⟩

/-- Between steps half a cycle apart the sine changes sign. -/
theorem waveSine_of_half_cycle_on (h : bits ph' 31 22 = bits ph 31 22 + 512) : waveSine ph' = -waveSine ph := by
  have hlt := bits_top_ten_lt ph'
  rcases lt_or_ge (bits ph 31 22) 256 with h1 | h1
  · have hj : bits ph 31 22 < 257 := by omega
    rw [waveSine_first (j := ⟨_, hj⟩) h1 rfl, waveSine_third (j := ⟨_, hj⟩) (by omega) h.symm]
  · have hj : 512 - bits ph 31 22 < 257 := by omega
    rw [waveSine_second (j := ⟨_, hj⟩) h1 (by omega) (Nat.sub_add_cancel (by omega)),
      waveSine_fourth (j := ⟨_, hj⟩) (by omega) (by dsimp only; omega)]

/-- Half a cycle on, the top ten bits are 512 steps on, round the cycle. -/
theorem bits_top_ten_add_half (ph : Word) :
    bits (ph + 0x80000000) 31 22 = bits ph 31 22 + 512 ∨ bits ph 31 22 = bits (ph + 0x80000000) 31 22 + 512 := by
  have hlt := ph.isLt
  have hadd : (ph + 0x80000000).toNat = (ph.toNat + 2147483648) % 4294967296 := BitVec.toNat_add ph 0x80000000
  rw [bits_top_ten, bits_top_ten, hadd]
  omega

/-- Half a cycle on, the sine is negated. -/
theorem waveSine_add_half (ph : Word) : waveSine (ph + 0x80000000) = -waveSine ph := by
  rcases bits_top_ten_add_half ph with h | h
  · exact waveSine_of_half_cycle_on h
  · rw [waveSine_of_half_cycle_on h, neg_neg]

/-- The sine rises and falls through the same values: the second quarter wave mirrors the first. -/
theorem waveSine_mirror_of_le (h : bits ph 31 22 + bits ph' 31 22 = 512) (hle : bits ph 31 22 ≤ bits ph' 31 22) :
    waveSine ph = waveSine ph' := by
  rcases Nat.eq_zero_or_pos (bits ph 31 22) with h0 | h0
  · rw [waveSine_first (j := 0) (by omega) h0.symm, waveSine_third (j := 0) (by omega) (by rw [Fin.val_zero]; omega)]
    rfl
  rcases lt_or_ge (bits ph 31 22) 256 with h1 | h1
  · have hj : bits ph 31 22 < 257 := by omega
    rw [waveSine_first (j := ⟨_, hj⟩) h1 rfl, waveSine_second (j := ⟨_, hj⟩) (by omega) (by omega) h]
  · exact waveSine_congr (by omega)

end

/-! ## Mirrored entries of the sine ROM (R132) -/

/-- Each entry of the ROM and the one that mirrors it, squared, add to 32768 squared within 65536. -/
theorem sineTable_mirrored : ∀ p ∈ sineTable.zip sineTable.reverse,
    |(p.1 : Int) * p.1 + p.2 * p.2 - 32768 * 32768| ≤ 65536 := by decide +kernel

/-- Entry `j` stands beside entry `256 - j` in the ROM and its reverse. -/
theorem mem_zip_sineTable_reverse (j : Fin 257) :
    ∃ p ∈ sineTable.zip sineTable.reverse, sineQ j = p.1 ∧ sineQ j.rev = p.2 := by
  have hlen := sineTable_length
  have hj := j.isLt
  refine ⟨_, List.getElem_mem (n := j.val) (by simp [hlen]), ?_⟩
  rw [List.getElem_zip, List.getElem_reverse]
  refine ⟨rfl, ?_⟩
  simp only [sineQ, List.get_eq_getElem, Fin.val_cast, Fin.val_rev, hlen]
  congr 2
  omega

/-- Two mirrored entries of the ROM are the legs of a right triangle to within the rounding of R132. -/
theorem sineQ_mirrored (j : Fin 257) : |sineQ j * sineQ j + sineQ j.rev * sineQ j.rev - 32768 * 32768| ≤ 65536 := by
  obtain ⟨p, hp, hj, hrev⟩ := mem_zip_sineTable_reverse j
  rw [hj, hrev]
  exact sineTable_mirrored p hp

/-- Settles O32: the quarter waves are one lemma each, and the symmetries follow from them. -/
theorem sineHasItsSymmetries : Obligations.SineHasItsSymmetries := by
  refine ⟨fun ph ph' => ⟨fun _ _ => rfl, fun j => ⟨waveSine_first, waveSine_second,
    fun _ h2 => waveSine_third h2, waveSine_fourth⟩, waveSine_add_half ph, waveSine_congr, fun h => ?_⟩,
    by decide +kernel, sineQ_mirrored⟩
  rcases le_total (bits ph 31 22) (bits ph' 31 22) with hle | hle
  · exact waveSine_mirror_of_le h hle
  · exact (waveSine_mirror_of_le ((Nat.add_comm ..).trans h) hle).symm

/-! ## The range of every waveform (R139) -/

/-- Sine lies within the ROM's largest entry of 0. -/
theorem waveSine_bounds (ph : Word) : -32767 ≤ waveSine ph ∧ waveSine ph ≤ 32767 := by
  obtain ⟨j, h⟩ := waveSine_mem_rom ph
  have hj := sineQ_bounds j
  omega

/-- Saw of a 16-bit index is a sample (R133). -/
theorem waveSaw_bounds {h : Nat} (hh : h < 65536) : -32768 ≤ waveSaw h ∧ waveSaw h ≤ 32767 := by
  unfold waveSaw
  omega

/-- Square is a sample (R134). -/
theorem waveSquare_bounds (h : Nat) : -32768 ≤ waveSquare h ∧ waveSquare h ≤ 32767 := by
  unfold waveSquare
  split <;> decide

/-- Pulse is a sample (R135). -/
theorem wavePulse_bounds (h : Nat) : -32768 ≤ wavePulse h ∧ wavePulse h ≤ 32767 := by
  unfold wavePulse
  split <;> decide

/-- Triangle of a 16-bit index is a sample (R136). -/
theorem waveTriangle_bounds {h : Nat} (hh : h < 65536) : -32768 ≤ waveTriangle h ∧ waveTriangle h ≤ 32767 := by
  unfold waveTriangle
  split_ifs <;> omega

/-- White noise is a 16-bit pattern read as a signed number, whichever model gives it. -/
theorem waveNoise_bounds (m : NoiseModel) (n : Noise) : -32768 ≤ (waveNoise m n).1 ∧ (waveNoise m n).1 ≤ 32767 := by
  cases m with
  | lfsr => exact sext16_bounds (bits_lt _ 15 0)
  | draw => exact ⟨BitVec.le_toInt _, Int.le_of_lt_add_one BitVec.toInt_lt⟩

/-- Whatever the kind, the phase and the noise source, the generator gives a sample (R139). -/
theorem waveGen_bounds (m : NoiseModel) (kind : WaveKind) (ph : Word) (n : Noise) :
    -32768 ≤ (waveGen m kind ph n).1 ∧ (waveGen m kind ph n).1 ≤ 32767 := by
  have hh : bits ph 31 16 < 65536 := bits_lt ph 31 16
  cases kind with
  | sine =>
    obtain ⟨hlo, hhi⟩ := waveSine_bounds ph
    exact ⟨le_trans (by decide) hlo, hhi⟩
  | saw => exact waveSaw_bounds hh
  | square => exact waveSquare_bounds _
  | pulse => exact wavePulse_bounds _
  | triangle => exact waveTriangle_bounds hh
  | whiteNoise => exact waveNoise_bounds m n

/-- Settles O30: the bounds are `waveGen_bounds`, and each extreme comes with its phase or register. -/
theorem waveOutputsAreSamples : Obligations.WaveOutputsAreSamples := by
  have sine_peak : waveSine 0x40000000 = 32767 := waveSine_second (j := 256) (by decide) (by decide) (by decide)
  have sine_trough : waveSine 0xC0000000 = -32767 := waveSine_fourth (j := 256) (by decide) (by decide)
  refine ⟨waveGen_bounds, fun _ ph _ => (waveSine_bounds ph).1, fun m n => ⟨⟨0xC0000000, sine_trough⟩, ?_⟩,
    fun m n => ?_, ?_⟩
  · simp only [List.forall_mem_cons]
    exact ⟨⟨0, rfl⟩, ⟨0, rfl⟩, ⟨0x40000000, rfl⟩, ⟨0x40000000, sine_peak⟩, List.forall_mem_nil _⟩
  · simp only [List.forall_mem_cons]
    exact ⟨⟨0, rfl⟩, ⟨0x80000000, rfl⟩, ⟨0x40000000, rfl⟩, ⟨0xC0000000, rfl⟩, List.forall_mem_nil _⟩
  · have noise_trough : (waveNoise .lfsr ⟨0x10000, 0⟩).1 = -32768 := by decide
    exact fun _ => ⟨⟨0x10000, 0⟩, noise_trough⟩

/-! ## A WhiteNoise pass reads no phase and evaluates once an oscillator (R137, R225, R226) -/

/-- A WhiteNoise oscillator sum reads nothing of its oscillators but their number (R137). -/
theorem oscSum_noise_map (m : NoiseModel) (g : Osc → Osc) (os : List Osc) (n : Noise) :
    oscSum m .whiteNoise (os.map g) n = oscSum m .whiteNoise os n := by
  induction os generalizing n with
  | nil => rfl
  | cons o os ih => simp only [List.map_cons, oscSum, waveGen, ih]

/-- So a WhiteNoise mix is the same with other phases. -/
theorem mixSum_noise_mapOscs {x : MixContext} (hx : x.kind = .whiteNoise) (g : Osc → Osc) (l : List Slot)
    (n : Noise) : mixSum x (mapVoices (fun v => { v with oscs := v.oscs.map g }) l) n = mixSum x l n := by
  induction l generalizing n with
  | nil => rfl
  | cons a l ih =>
    unfold mapVoices at ih ⊢
    cases a with
    | none => exact ih n
    | some v =>
      simp only [List.map_cons, Option.map_some, mixSum, Voice.isFinished, voiceSample, voiceLevel, hx,
        oscSum_noise_map, ih]

/-- However many advances of the phases, a WhiteNoise sample is the same (R130, R156). -/
theorem mixSample_noise_advance {x : MixContext} (hx : x.kind = .whiteNoise) (k : Nat) (l : List Slot) (n : Noise) :
    mixSample x (mapVoices (Voice.advance^[k]) l) n = mixSample x l n := by
  rw [funext (advance_iterate k), mixSample, mixSample, mixSum_noise_mapOscs hx]

/-- The polyphonic factor: 1.0 for at most one voice, else the ROM's entry (R204). -/
theorem polyGain_eq_some {voices g : Nat} (h : polyGain voices = some g) :
    if voices ≤ 1 then g = 32768 else rsqrt voices = some g := by
  unfold polyGain at h
  split_ifs at h ⊢
  · exact (Option.some.inj h).symm
  · exact h

/-- |L| of a pass at time `t`: the voices that its update does not finish (R225). -/
def mixedCount (c : Config) (t : Ticks) (slots : List Slot) : Nat :=
  (voicesOf slots).countP fun v => (v.update c t).stage != .finished

/-- The voices of the update phase that are not Finished are those the update does not finish. -/
theorem countP_updatePhase (c : Config) (t : Ticks) (slots : List Slot) :
    (voicesOf (updatePhase c t slots)).countP (fun v => v.stage != .finished) = mixedCount c t slots := by
  rw [updatePhase, voicesOf_mapVoices, List.countP_map]
  rfl

section
variable {x : MixContext} {s : State} (hx : x.kind = .whiteNoise)
  (hosc : ∀ v, some v ∈ s.slots → v.oscs.length = s.cfg.numOsc)

include hosc in
/-- The update leaves every bank its length. -/
theorem oscs_length_updatePhase (t : Ticks) :
    ∀ v, some v ∈ updatePhase s.cfg t s.slots → v.oscs.length = s.cfg.numOsc := by
  simp only [updatePhase, ← mem_voicesOf, voicesOf_mapVoices, List.mem_map]
  rintro _ ⟨v, hv, rfl⟩
  rw [update_oscs, hosc v (mem_voicesOf.mp hv)]

include hx hosc

/-- `k` rounds of a WhiteNoise pass make `k` × |L| × N evaluations. -/
theorem passLoop_noise (t : Ticks) (k : Nat) :
    (sampleLoop x k (s.passStart (updatePhase s.cfg t s.slots))).2.noise =
      (Noise.next x.noiseModel)^[k * mixedCount s.cfg t s.slots * s.cfg.numOsc] ⟨s.lfsr, s.draws⟩ := by
  rw [sampleLoop_noise hx k _ (oscs_length_updatePhase hosc t), State.passStart, countP_updatePhase]

/-- Sample `j` of a WhiteNoise pass is the mix of the updated slots from the noise source `j` rounds on. -/
theorem passLoop_getElem? (t : Ticks) {j k : Nat} (hj : j < k) :
    (sampleLoop x k (s.passStart (updatePhase s.cfg t s.slots))).1[j]? = some
      (mixSample x (updatePhase s.cfg t s.slots)
        ((Noise.next x.noiseModel)^[j * mixedCount s.cfg t s.slots * s.cfg.numOsc] ⟨s.lfsr, s.draws⟩)).1 := by
  rw [sampleLoop_getElem? x _ hj, passLoop_noise hx hosc, mixSample_noise_advance hx, State.passStart]

end

/-- Settles O45: the pass's noise source and samples are those of its loop (`passLoop_noise`, `passLoop_getElem?`),
and as many evaluations are steps of the register or draws. -/
theorem noiseStepsOncePerEvaluation : Obligations.NoiseStepsOncePerEvaluation := by
  intro t s u h hosc
  obtain ⟨⟨m, kind, volume, gainN, gainV⟩, hx, rfl⟩ := renderPass_next h
  obtain ⟨rfl, rfl, rfl, hgainN, hgainV⟩ := mixContext_some hx
  rw [updatePhase, voiceCount_mapVoices] at hgainV
  simp only [finishPass_lfsr, finishPass_draws, finishPass_buf]
  refine ⟨fun hw hm => ?_, fun hw hm => ?_, fun hw => ?_, fun hw => ⟨gainN, gainV, hgainN, polyGain_eq_some hgainV,
    fun j hj => ?_⟩⟩
  · rw [passLoop_noise hw hosc, hm, next_lfsr]
    exact ⟨rfl, rfl⟩
  · rw [passLoop_noise hw hosc, hm, next_draw]
    exact ⟨rfl, rfl⟩
  · rw [sampleLoop_noise_shaped hw]
    exact ⟨rfl, rfl⟩
  · rw [passLoop_getElem? (k := BLOCK) hw hosc t hj]
    cases s.cfg.noise with
    | lfsr => rw [next_lfsr]; rfl
    | draw => rw [next_draw]; rfl

end Sys2Proof.Machine
end

section
/-! PROOFS. 42_nco.md: the tuning ROM, the detuned words of a bank, and the phases each sample of a pass reads. -/

namespace Sys2Proof.Machine

/-! ## The tuning ROM (R151) -/

/-- The table of either rate has a row an octave 0..8 and an entry a note 0..11, each in the range of R153. -/
theorem noteFtwTable_shape {rate : Nat} {table : List (List Nat)} (h : noteFtwTable rate = some table) :
    table.length = 9 ∧ ∀ row ∈ table, row.length = 12 ∧ ∀ x ∈ row, 1463116 ≤ x ∧ x < 2 ^ 31 := by
  unfold noteFtwTable at h
  split_ifs at h
  · cases h
    decide
  · cases h
    decide

/-- A lookup finds the entry of its row in the table of its rate. -/
theorem noteFtw_eq_some {rate oct note : Nat} {b : Word} (h : noteFtw rate oct note = some b) :
    ∃ table row x, noteFtwTable rate = some table ∧ table[oct]? = some row ∧ row[note]? = some x ∧
      BitVec.ofNat 32 x = b := by
  unfold noteFtw at h
  split at h
  · cases h
  · next table htable =>
    split at h
    · cases h
    · next row hrow =>
      obtain ⟨x, hx, hb⟩ := Option.map_eq_some_iff.mp h
      exact ⟨table, row, x, htable, hrow, hx, hb⟩

/-- Whatever a lookup finds was asked for a pitch class, and is a base word in the range of R153. -/
theorem noteFtw_range {rate oct note : Nat} {b : Word} (h : noteFtw rate oct note = some b) :
    (oct ≤ 8 ∧ note ≤ 11) ∧ 1463116 ≤ b.toNat ∧ b.toNat < 2 ^ 31 := by
  obtain ⟨table, row, x, htable, hrow, hx, rfl⟩ := noteFtw_eq_some h
  obtain ⟨hoct, hrows⟩ := noteFtwTable_shape htable
  obtain ⟨hnote, hentries⟩ := hrows row (List.mem_of_getElem? hrow)
  obtain ⟨hlo, hhi⟩ := hentries x (List.mem_of_getElem? hx)
  obtain ⟨hoct_lt, -⟩ := List.getElem?_eq_some_iff.mp hrow
  obtain ⟨hnote_lt, -⟩ := List.getElem?_eq_some_iff.mp hx
  rw [BitVec.toNat_ofNat]
  omega

/-- Settles O36: a pitch class has an entry (`noteFtw_isSome`), and what has an entry is a pitch class and in range
(`noteFtw_range`). -/
theorem tuningRomIsInRange : Obligations.TuningRomIsInRange := by
  intro rate hrate oct _ note _
  split_ifs with hpitch
  · obtain ⟨b, hb⟩ := noteFtw_isSome (by simpa using hrate) hpitch.1 hpitch.2
    exact ⟨b, hb, (noteFtw_range hb).2⟩
  · exact Option.eq_none_iff_forall_ne_some.mpr fun b hb => hpitch (noteFtw_range hb).1

/-! ## Detuned words (R153, R154) -/

/-- The offset of oscillator `i` from the base word, before any reduction to 32 bits (R153). -/
def spreadOffset (n : Nat) (b : Word) (d : Detune) (i : Nat) : Int :=
  (b.toNat * d.toNat * (2 * (i : Int) - ((n : Int) - 1))) / (2 * ((n : Int) - 1) * 65536)

/-- With one oscillator a detuned word is the base word (R154). -/
@[simp] theorem detunedFtw_one (b : Word) (d : Detune) (i : Nat) : detunedFtw 1 b d i = b := if_pos rfl

/-- With more, it is the base word moved by the offset (R153). -/
theorem detunedFtw_eq {n : Nat} (hn : n ≠ 1) (b : Word) (d : Detune) (i : Nat) :
    detunedFtw n b d i = BitVec.ofInt 32 (b.toNat + spreadOffset n b d i) := if_neg hn

/-- Detune 0 moves no oscillator (R154). -/
@[simp] theorem spreadOffset_zero (n : Nat) (b : Word) (i : Nat) : spreadOffset n b 0 i = 0 := by
  simp [spreadOffset]

/-- Settles O35: one oscillator takes the base word, and detune 0 moves it by 0. -/
theorem flatBankGivesTheBase : Obligations.FlatBankGivesTheBase := by
  refine ⟨fun b d => detunedFtw_one b d 0, fun n i b _ _ => ?_⟩
  by_cases hn : n = 1
  · rw [hn, detunedFtw_one]
  · rw [detunedFtw_eq hn, spreadOffset_zero, Int.add_zero, BitVec.ofInt_natCast, BitVec.ofNat_toNat,
      BitVec.setWidth_eq]

section
variable {n i : Nat} {b : Word} {d : Detune} (hn : 2 ≤ n) (hi : i < n) (hd : d.toNat ≤ 65536)
include hn hi hd

/-- The numerator of the spread is at most half the denominator for each unit of the base word: the factor
2i - (N - 1) lies within ±(N - 1), and the detune is at most 1.0. -/
theorem abs_spreadNum_le :
    |(b.toNat : Int) * d.toNat * (2 * (i : Int) - ((n : Int) - 1))| ≤ b.toNat * (((n : Int) - 1) * 65536) := by
  have hfactor : |2 * (i : Int) - ((n : Int) - 1)| ≤ (n : Int) - 1 := abs_le.mpr (by omega)
  have hdetune : |(d.toNat : Int)| ≤ 65536 := abs_le.mpr (by omega)
  rw [mul_assoc, abs_mul, abs_mul, Nat.abs_cast, mul_comm |(d.toNat : Int)|]
  gcongr
  omega

/-- No oscillator is moved by more than half the base word, rounded down. -/
theorem spreadOffset_bounds :
    -(b.toNat : Int) / 2 ≤ spreadOffset n b d i ∧ spreadOffset n b d i ≤ (b.toNat : Int) / 2 := by
  have hunit : 0 < ((n : Int) - 1) * 65536 := by omega
  obtain ⟨hlo, hhi⟩ := abs_le.mp (abs_spreadNum_le (b := b) hn hi hd)
  rw [spreadOffset, mul_assoc 2, ← Int.mul_ediv_mul_of_pos_left (-(b.toNat : Int)) 2 hunit,
    ← Int.mul_ediv_mul_of_pos_left (b.toNat : Int) 2 hunit, neg_mul]
  exact ⟨Int.ediv_le_ediv (by omega) hlo, Int.ediv_le_ediv (by omega) hhi⟩

/-- A base word of the ROM's range moved by its offset is a 32-bit number, so the detuned word is that number. -/
theorem toNat_detunedFtw (hb : b.toNat < 2 ^ 31) :
    ((detunedFtw n b d i).toNat : Int) = b.toNat + spreadOffset n b d i := by
  obtain ⟨hlo, hhi⟩ := spreadOffset_bounds (b := b) hn hi hd
  rw [detunedFtw_eq (by omega), BitVec.toNat_ofInt]
  omega

end

/-- Settles O34: a detuned word is the base word and its offset (`toNat_detunedFtw`), which is at most half of the
base word either way (`spreadOffset_bounds`). -/
theorem detunedWordsSpreadAroundTheBase : Obligations.DetunedWordsSpreadAroundTheBase := by
  intro n i b d hn _ hi hlow hhigh hd
  have hword := toNat_detunedFtw hn hi hd hhigh
  obtain ⟨hlo, hhi⟩ := spreadOffset_bounds (b := b) hn hi hd
  refine ⟨hword, ?_, ?_, ?_⟩ <;> omega

/-! ## The phases a sample reads (R158, R225, R226) -/

/-- But for WhiteNoise, a sample does not depend on the noise source (R130). -/
theorem mixSample_shaped {x : MixContext} (hx : x.kind ≠ .whiteNoise) (slots : List Slot) (n n' : Noise) :
    (mixSample x slots n).1 = (mixSample x slots n').1 := by
  simp only [mixSample, (mixSum_shaped hx slots n n').1]

/-- `k` advances of the updated slots put every phase `k` tuning words on (R156, R224). -/
theorem updatePhase_advance (c : Config) (t : Ticks) (slots : List Slot) (k : Nat) :
    mapVoices (Voice.advance^[k]) (updatePhase c t slots) =
      mapVoices (fun v => { v.update c t with
        oscs := v.oscs.map fun o => { o with phase := o.phase + BitVec.ofNat 32 k * o.ftw } }) slots := by
  rw [updatePhase, mapVoices_mapVoices]
  congr 1
  funext v
  rw [Function.comp_apply, advance_iterate, update_oscs]

/-- Settles O43: sample `j` of the loop is the mix after `j` advances of the updated slots, whose count of voices is
that of the pass, and the noise source the loop has then does not enter it. -/
theorem samplesReadTheirOwnPhase : Obligations.SamplesReadTheirOwnPhase := by
  intro t s u n h hw
  obtain ⟨⟨m, kind, volume, gainN, gainV⟩, hx, rfl⟩ := renderPass_next h
  obtain ⟨rfl, rfl, rfl, hgainN, hgainV⟩ := mixContext_some hx
  rw [updatePhase, voiceCount_mapVoices] at hgainV
  refine ⟨gainN, gainV, hgainN, polyGain_eq_some hgainV, fun j hj => ?_⟩
  rw [finishPass_buf, sampleLoop_getElem? (k := BLOCK) _ _ hj, State.passStart, updatePhase_advance,
    mixSample_shaped hw]

end Sys2Proof.Machine
end

section
/-! PROOFS. 43_commands.md: NOP, CLR_STATUS and SET_DETUNE with their fields, and that every command completes. -/

namespace Sys2Proof.Machine

/-! ## NOP and CLR_STATUS (R171, R177) -/

/-- Settles O14: opcode 0 is NOP, which answers the state it began in. -/
theorem nopChangesNothing : Obligations.NopChangesNothing := by
  intro s w hw
  rw [decodeWord_nop hw, exec_nop]

/-- With both flags cleared `st_err` is 0 (R43, R177). -/
@[simp] theorem clearFlags_stErr (s : State) : s.clearFlags.stErr = 0 := by
  rw [State.stErr, clearFlags_errFull, clearFlags_errIllegal]
  decide

/-- Settles O21: opcode 6 is CLR_STATUS, which clears both flags and with them `st_err` (`clearFlags_stErr`). -/
theorem clearStatusClearsBothFlags : Obligations.ClearStatusClearsBothFlags :=
  fun s => ⟨fun _ => decodeWord_clrStatus, s.clearFlags, exec_clrStatus s, rfl, clearFlags_stErr s⟩

/-! ## SET_DETUNE (R174) -/

/-- The clamped detune fits in DETUNE's 17 bits. -/
theorem clampDetune_toNat (d : Nat) : (clampDetune d).toNat = min d 65536 := by
  rw [clampDetune, BitVec.toNat_ofNat]
  omega

/-- Settles O18: DETUNE's value is the clamped operand (`clampDetune_toNat`), and `mapVoices` retunes each occupied
slot in place, whose new bank is a tuned bank (`tuneBank_getElem?`). -/
theorem setDetuneRetunesEveryVoice : Obligations.SetDetuneRetunesEveryVoice := by
  refine ⟨fun w => decodeWord_setDetune, fun s d hl =>
    ⟨_, exec_setDetune hl d, rfl, clampDetune_toNat d, mapVoices_length .., fun i hfree => ?_, fun i v hv => ?_⟩⟩
  · simp [hfree]
  · refine ⟨tuneBank s.cfg.numOsc s.nsamp v.ftwBase (clampDetune d), ?_, tuneBank_length ..,
      fun k => tuneBank_getElem? s.nsamp v.ftwBase (clampDetune d)⟩
    rw [setSlots_slots, mapVoices_getElem?, hv]
    rfl

/-! ## Every command completes (R170, R240) -/

section
variable {s : State} (hl : s.slots.length = s.cfg.maxVoices)
include hl

/-- NOTE_ON completes in each of its cases: the tuning ROM has an entry for every pitch class it looks up (R172). -/
theorem exec_noteOn_completes (hc : s.cfg.Legal) (key : Key) (note oct : Nat) :
    ∃ t, exec (.noteOn key note oct) s = .next t := by
  by_cases hr : 11 < note ∨ 8 < oct
  · exact ⟨s, exec_noteOn_unresolvable hr key s⟩
  have hn : note ≤ 11 := by omega
  have ho : oct ≤ 8 := by omega
  cases hk : findKey s.slots key with
  | some i => exact ⟨s, exec_noteOn_active hl hk note oct⟩
  | none =>
    cases ha : allocSlot s.slots with
    | none => exact ⟨_, exec_noteOn_full hn ho hl hk ha⟩
    | some i =>
      obtain ⟨base, hb⟩ := noteFtw_isSome hc.1 ho hn
      exact ⟨_, exec_noteOn_starts hn ho hl hk ha hb⟩

/-- NOTE_OFF completes, whether or not its key is active (R173). -/
theorem exec_noteOff_completes (key : Key) : ∃ t, exec (.noteOff key) s = .next t := by
  cases hk : findKey s.slots key with
  | none => exact ⟨s, exec_noteOff_inactive hl hk⟩
  | some i =>
    obtain ⟨v, hv, -⟩ := findKey_some hk
    exact ⟨_, exec_noteOff_active hl hk hv⟩

end

/-- Settles O23: the commands that visit the slots complete where there are MAX_VOICES of them, and the others in
every state. -/
theorem commandsNeverFail : Obligations.CommandsNeverFail := by
  intro i s hc hl
  cases i with
  | noteOn key note oct => exact exec_noteOn_completes hl hc key note oct
  | noteOff key => exact exec_noteOff_completes hl key
  | setDetune d => exact ⟨_, exec_setDetune hl d⟩
  | nop | toggleWave | setVolume | clrStatus | illegal7 | illegalHigh => exact ⟨_, rfl⟩

end Sys2Proof.Machine
end

section
/-! PROOFS. 44_mixer.md: the normalisation ROM, the order of a mix, the formulas of a sample and its soft clip, and the
widths of the datapath. -/

namespace Sys2Proof.Machine

/-! ## The normalisation ROM (R206) -/

/-- Settles O37: RSQRT has an entry for each `k` from 1 to 64, and each is checked by its two squares. -/
theorem rsqrtRomIsRounded : Obligations.RsqrtRomIsRounded := by
  unfold Obligations.RsqrtRomIsRounded
  decide

/-! ## The mix slot by slot and oscillator by oscillator (R201, R204, R225) -/

/-- A free slot adds nothing and evaluates nothing. -/
theorem mixSum_free (x : MixContext) (l : List Slot) (n : Noise) : mixSum x (none :: l) n = mixSum x l n := rfl

/-- A Finished voice adds nothing and evaluates nothing. -/
theorem mixSum_cons_finished {v : Voice} (hv : v.stage = .finished) (x : MixContext) (l : List Slot) (n : Noise) :
    mixSum x (some v :: l) n = mixSum x l n :=
  if_pos (beq_iff_eq.mpr hv)

/-- Any other voice adds its level, and the slots after it start from the noise source it left. -/
theorem mixSum_cons_mixed {v : Voice} (hv : v.stage ≠ .finished) (x : MixContext) (l : List Slot) (n : Noise) :
    mixSum x (some v :: l) n =
      ((voiceSample x v n).1 + (mixSum x l (voiceSample x v n).2).1, (mixSum x l (voiceSample x v n).2).2) :=
  if_neg (mt beq_iff_eq.mp hv)

/-- A sum of two stretches of oscillators: the second starts from the noise source the first left. -/
theorem oscSum_append (m : NoiseModel) (kind : WaveKind) (a b : List Osc) (n : Noise) :
    oscSum m kind (a ++ b) n =
      ((oscSum m kind a n).1 + (oscSum m kind b (oscSum m kind a n).2).1,
        (oscSum m kind b (oscSum m kind a n).2).2) := by
  induction a generalizing n with
  | nil => simp [oscSum]
  | cons o a ih => simp only [List.cons_append, oscSum, ih, Int.add_assoc]

/-- But for WhiteNoise, an oscillator sum is the sum of the waveform values (R200). -/
theorem oscSum_eq_sum (m : NoiseModel) {kind : WaveKind} (hk : kind ≠ .whiteNoise) (os : List Osc) (n : Noise) :
    (oscSum m kind os n).1 = (os.map fun o => (waveGen m kind o.phase n).1).sum := by
  induction os with
  | nil => rfl
  | cons o os ih => rw [oscSum, waveGen_noise hk, ih, List.map_cons, List.sum_cons]

/-- But for WhiteNoise, a voice leaves the noise source as it found it (R137). -/
theorem voiceSample_noise {x : MixContext} (hx : x.kind ≠ .whiteNoise) (v : Voice) (n : Noise) :
    (voiceSample x v n).2 = n :=
  (oscSum_shaped x.noiseModel hx v.oscs n n).2

/-- But for WhiteNoise, a mix is the sum of the levels of the voices that are not Finished (R204). -/
theorem mixSum_eq_sum {x : MixContext} (hx : x.kind ≠ .whiteNoise) (l : List Slot) (n : Noise) :
    (mixSum x l n).1 =
      (((voicesOf l).filter fun v => v.stage != .finished).map fun v => (voiceSample x v n).1).sum := by
  induction l with
  | nil => rfl
  | cons a l ih =>
    cases a with
    | none => rw [mixSum_free, ih, voicesOf_none]
    | some v =>
      by_cases hv : v.stage = .finished
      · rw [mixSum_cons_finished hv, ih, voicesOf_some, List.filter_cons_of_neg (by simp [hv])]
      · rw [mixSum_cons_mixed hv, voiceSample_noise hx, ih, voicesOf_some, List.filter_cons_of_pos (by simp [hv]),
          List.map_cons, List.sum_cons]

/-- So, but for WhiteNoise, a mix does not depend on the order of the slots. -/
theorem mixSum_perm {x : MixContext} (hx : x.kind ≠ .whiteNoise) {l l' : List Slot} (h : l.Perm l') (n : Noise) :
    (mixSum x l n).1 = (mixSum x l' n).1 := by
  rw [mixSum_eq_sum hx, mixSum_eq_sum hx]
  exact (((h.filterMap id).filter _).map _).sum_eq

/-- Nor does an oscillator sum depend on the order of the oscillators. -/
theorem oscSum_perm (m : NoiseModel) {kind : WaveKind} (hk : kind ≠ .whiteNoise) {os os' : List Osc}
    (h : os.Perm os') (n : Noise) : (oscSum m kind os n).1 = (oscSum m kind os' n).1 := by
  rw [oscSum_eq_sum m hk, oscSum_eq_sum m hk]
  exact (h.map _).sum_eq

/-- Settles O40: the order of evaluation is that of the two recursions, and but for WhiteNoise both are sums over
their lists, which a permutation keeps. -/
theorem mixIgnoresItsOrder : Obligations.MixIgnoresItsOrder := by
  refine fun x n => ⟨fun a b => mixSum_append x a b n, mixSum_free x [] n,
    fun v hv => mixSum_cons_finished hv x [] n, fun v hv => ?_,
    fun a b => oscSum_append x.noiseModel x.kind a b n, fun o => ?_,
    fun hx => ⟨fun _ _ h => mixSum_perm hx h n, fun _ _ h => oscSum_perm x.noiseModel hx h n⟩⟩
  · rw [mixSum_cons_mixed hv]
    simp [mixSum, voiceSample]
  · simp [oscSum]

/-! ## A sample and its soft clip (R202 to R205) -/

/-- The shift after each gain is the division by 1.0, rounded down (R9). -/
theorem asr_fifteen (v : Int) : asr v 15 = v / 32768 := rfl

/-- A voice's level: the oscillator gain, AMP and VOLUME, each rounded down (R202, R203). -/
theorem voiceLevel_eq (x : MixContext) (v : Voice) (sum : Int) : voiceLevel x v sum =
    (sum * x.gainN / 32768) * v.amp.toNat / 32768 * x.volume.toNat / 32768 := by
  simp only [voiceLevel, applyVolume, applyAmp, normalise, asr_fifteen]

/-- `clamp` takes what lies below its interval to the lower end. -/
theorem clamp_of_lt {v lo hi : Int} (h : v < lo) : clamp v lo hi = lo := if_pos h

/-- `clamp` takes what lies above its interval to the upper end. -/
theorem clamp_of_gt {v lo hi : Int} (hle : lo ≤ hi) (h : hi < v) : clamp v lo hi = hi := by
  rw [clamp, if_neg (by omega), if_pos h]

/-- Settles O39: the sums are `oscSum_eq_sum` and `mixSum_eq_sum`, and the output is the clamp of the scaled mix
(`mixSample_toInt`) below, within and above its interval. -/
theorem outputsAreSoftClipped : Obligations.OutputsAreSoftClipped := by
  intro x slots n y s p out
  have hout : out = clamp p (-31130) 31130 := mixSample_toInt x slots n
  refine ⟨fun v => voiceLevel_eq x v _, fun hx => ⟨fun v => oscSum_eq_sum x.noiseModel hx v.oscs n, ?_⟩,
    hout ▸ clamp_mem (by decide), fun h1 h2 => hout.trans (clamp_of_mem h1 h2),
    fun h => hout.trans (clamp_of_gt (by decide) h), fun h => hout.trans (clamp_of_lt h)⟩
  have hlevel (v : Voice) : (voiceSample x v n).1 = y v (s v) := by
    rw [voiceSample, voiceLevel_eq, oscSum_eq_sum x.noiseModel hx]
  simp only [mixSum_eq_sum hx, hlevel]

/-! ## The widths of the datapath (R207) -/

/-- A gain of at most 1.0 and its shift widen nothing. -/
theorem abs_asr_gain_le {u b : Int} {g : Nat} (hu : |u| ≤ b) (hg : g ≤ 32768) : |asr (u * g) 15| ≤ b :=
  abs_le.mpr (asr_gain_bound hg (abs_le.mp hu))

/-- The product before the shift is 15 bits wider than what the gain is applied to. -/
theorem abs_mul_gain_le {u b : Int} {g : Nat} (hu : |u| ≤ b) (hg : g ≤ 32768) : |u * g| ≤ b * 32768 := by
  rw [abs_mul, Nat.abs_cast]
  gcongr
  · exact (abs_nonneg u).trans hu
  · exact_mod_cast hg

/-- Each oscillator adds at most a sample's magnitude (R139). -/
theorem abs_oscSum_le (m : NoiseModel) (kind : WaveKind) (os : List Osc) (n : Noise) :
    |(oscSum m kind os n).1| ≤ os.length * 32768 := by
  induction os generalizing n with
  | nil => simp [oscSum]
  | cons o os ih =>
    obtain ⟨hlo, hhi⟩ := waveGen_bounds m kind o.phase n
    have hrest := ih (waveGen m kind o.phase n).2
    simp only [oscSum, List.length_cons, Nat.cast_succ, abs_le] at hrest ⊢
    omega

/-- Each slot adds at most the magnitude of a voice's level, whatever the noise source it starts from. -/
theorem abs_mixSum_le {x : MixContext} {b : Int} (hb : 0 ≤ b) {l : List Slot}
    (h : ∀ v, some v ∈ l → ∀ n, |(voiceSample x v n).1| ≤ b) (n : Noise) : |(mixSum x l n).1| ≤ l.length * b := by
  induction l generalizing n with
  | nil => simp [mixSum]
  | cons a l ih =>
    have hrest := ih fun v hv => h v (List.mem_cons_of_mem _ hv)
    have hwide : (l.length : Int) * b ≤ (a :: l).length * b := by gcongr; simp
    cases a with
    | none =>
      rw [mixSum_free]
      exact (hrest n).trans hwide
    | some v =>
      by_cases hv : v.stage = .finished
      · rw [mixSum_cons_finished hv]
        exact (hrest n).trans hwide
      · rw [mixSum_cons_mixed hv]
        calc _ ≤ |(voiceSample x v n).1| + |(mixSum x l (voiceSample x v n).2).1| := abs_add_le ..
          _ ≤ b + l.length * b := add_le_add (h v (List.mem_cons_self ..) n) (hrest _)
          _ = (some v :: l).length * b := by push_cast [List.length_cons]; ring

/-- Eight oscillators sum to at most `2 ^ 18`. -/
theorem abs_oscSum_le_of_length (m : NoiseModel) (kind : WaveKind) {os : List Osc} (h : os.length ≤ 8) (n : Noise) :
    |(oscSum m kind os n).1| ≤ 2 ^ 18 := by
  have hsum := abs_oscSum_le m kind os n
  omega

/-- Nor does any of the three gains widen a voice's sum: its level is at most `2 ^ 18`. -/
theorem abs_voiceSample_le {x : MixContext} {v : Voice} (hosc : v.oscs.length ≤ 8) (hN : x.gainN ≤ 32768)
    (hamp : v.amp.toNat ≤ 32768) (hvol : x.volume.toNat ≤ 32768) (n : Noise) : |(voiceSample x v n).1| ≤ 2 ^ 18 :=
  abs_asr_gain_le (abs_asr_gain_le (abs_asr_gain_le (abs_oscSum_le_of_length _ _ hosc n) hN) hamp) hvol

/-- Settles O38: eight oscillators sum to at most `2 ^ 18`, which no gain widens, 64 such levels to at most `2 ^ 24`,
and a product before its shift is 15 bits wider. -/
theorem mixerKeepsItsWidths : Obligations.MixerKeepsItsWidths := by
  intro x slots n hN hV hvol hlen hvoice
  have hlevel : ∀ v, some v ∈ slots → ∀ n, |(voiceSample x v n).1| ≤ 2 ^ 18 := fun v hv => by
    obtain ⟨hosc, hamp⟩ := hvoice v hv
    exact abs_voiceSample_le hosc hN hamp hvol
  have hmix : |(mixSum x slots n).1| ≤ 2 ^ 24 := by
    have := abs_mixSum_le (by decide) hlevel n
    omega
  refine ⟨fun v hv => ?_, hmix, (abs_mul_gain_le hmix hV).trans (by decide), abs_asr_gain_le hmix hV⟩
  intro sum u a
  obtain ⟨hosc, hamp⟩ := hvoice v hv
  have hsum : |sum| ≤ 2 ^ 18 := abs_oscSum_le_of_length _ _ hosc n
  have hu : |u| ≤ 2 ^ 18 := abs_asr_gain_le hsum hN
  have ha : |a| ≤ 2 ^ 18 := abs_asr_gain_le hu hamp
  have hproduct {w : Int} {g : Nat} (hw : |w| ≤ 2 ^ 18) (hg : g ≤ 32768) : |w * g| ≤ 2 ^ 39 :=
    (abs_mul_gain_le hw hg).trans (by decide)
  exact ⟨hsum, hu, ha, hlevel v hv n, hproduct hsum hN, hproduct hu hamp, hproduct ha hvol⟩

end Sys2Proof.Machine
end

section
/-! PROOFS. 45_render.md: what a render pass writes and leaves in each slot, its block when there is nothing to mix, and
the pull. -/

namespace Sys2Proof.Machine

/-! ## What a pass writes, and what it leaves (R222, R226, R227, R229, R230) -/

/-- Settles O41: a pass stores what its loop left (`renderPass_loop`) and no more. -/
theorem passWritesTheBlock : Obligations.PassWritesTheBlock := by
  intro t s u h
  obtain ⟨loop, rfl, hlen, hnsamp, hslots⟩ := renderPass_loop h
  exact ⟨hlen, rfl, rfl, hnsamp, by simp [hslots], rfl⟩

/-! ## The slots after a pass (R224, R227, R228) -/

/-- Eviction leaves a free slot free. -/
theorem evict_free {l : List Slot} {i : Nat} (h : l[i]? = some none) : (evict l)[i]? = some none := by
  simp [evict, h]

/-- Eviction frees the slot of a Finished voice. -/
theorem evict_finished {l : List Slot} {i : Nat} {v : Voice} (h : l[i]? = some (some v))
    (hv : v.stage = .finished) : (evict l)[i]? = some none := by
  simp [evict, h, Slot.mixed, Voice.isFinished, hv]

/-- Eviction leaves any other voice in its slot. -/
theorem evict_live {l : List Slot} {i : Nat} {v : Voice} (h : l[i]? = some (some v))
    (hv : v.stage ≠ .finished) : (evict l)[i]? = some (some v) := by
  simp [evict, h, Slot.mixed, Voice.isFinished, hv]

/-- Settles O42: the loop leaves each voice updated and 256 tuning words on (`renderPass_loop`), and eviction then
looks at its stage. -/
theorem passUpdatesAdvancesAndEvicts : Obligations.PassUpdatesAdvancesAndEvicts := by
  intro t s u h
  obtain ⟨loop, rfl, -, -, hslots⟩ := renderPass_loop h
  refine ⟨fun i hi => evict_free ?_, fun i v hi => ?_⟩
  · simp [hslots, hi]
  · have hloop : loop.2.slots[i]? = some (some { v.update s.cfg t with
        oscs := v.oscs.map fun o => { o with phase := o.phase + BitVec.ofNat 32 BLOCK * o.ftw } }) := by
      simp [hslots, hi]
    exact ⟨fun hv => evict_finished hloop hv, fun hv => evict_live hloop hv⟩

/-! ## A pass with nothing to mix (R225, R232) -/

/-- A slot file whose voices are all Finished gives the sample 0 (R225). -/
theorem mixSample_finished (x : MixContext) {l : List Slot} (n : Noise)
    (h : ∀ v ∈ voicesOf l, v.stage = .finished) : (mixSample x l n).1 = 0 := by
  rw [mixSample, mixSum_finished x l n fun v hv => h v (mem_voicesOf.mpr hv)]
  simp [polyScale, asr, softClip, clamp, CLIP_LEVEL]

/-- Advances of the phases leave Finished voices Finished (R156). -/
theorem finished_advance {l : List Slot} (h : ∀ v ∈ voicesOf l, v.stage = .finished) (k : Nat) :
    ∀ v ∈ voicesOf (mapVoices (Voice.advance^[k]) l), v.stage = .finished := by
  rw [voicesOf_mapVoices, List.forall_mem_map]
  intro v hv
  rw [advance_iterate]
  exact h v hv

/-- A loop over voices that are all Finished makes zeros (R232). -/
theorem sampleLoop_finished (x : MixContext) (k : Nat) {p : PassState}
    (h : ∀ v ∈ voicesOf p.slots, v.stage = .finished) : ∀ y ∈ (sampleLoop x k p).1, y = 0 := by
  induction k generalizing p with
  | zero => simp
  | succ k ih =>
    rw [sampleLoop_succ, List.forall_mem_cons]
    exact ⟨mixSample_finished x p.noise h, ih (finished_advance h 1)⟩

/-- Settles O44: the update phase leaves Finished voices only, so the loop makes zeros (`sampleLoop_finished`) and
eviction keeps none of them (`mem_evict`). -/
theorem passWithNothingToMixIsSilent : Obligations.PassWithNothingToMixIsSilent := by
  intro t s u h hfin
  have hlen : u.buf.length = 256 := (passWritesTheBlock t s u h).1
  obtain ⟨x, -, rfl⟩ := renderPass_next h
  generalize BLOCK = k at hlen ⊢
  have hdone : ∀ v ∈ voicesOf (updatePhase s.cfg t s.slots), v.stage = .finished := by
    rw [updatePhase, voicesOf_mapVoices, List.forall_mem_map]
    exact fun v hv => hfin v (mem_voicesOf.mp hv)
  refine ⟨hlen, sampleLoop_finished x k hdone, fun slot hslot => ?_⟩
  cases slot with
  | none => rfl
  | some v =>
    obtain ⟨hv, hlive⟩ := mem_evict.mp (mem_voicesOf.mpr hslot)
    rw [sampleLoop_slots] at hv
    exact absurd (finished_advance hdone k v hv) hlive

/-! ## The pull (R220, R221, R229) -/

/-- A transfer of an entry of BUF moves CURSOR on by one: its 9 bits hold 256 (R31, R220). -/
theorem deliver_cursor_toNat {s : State} (h : s.cursor.toNat < 256) (x : Sample) :
    (s.deliver x).cursor.toNat = s.cursor.toNat + 1 := by
  rw [deliver_cursor, BitVec.toNat_add]
  exact Nat.mod_eq_of_lt (show s.cursor.toNat + 1 < 512 by omega)

/-- Settles O46: below 256 a pull is a transfer alone (`pull_buffered`), and at 256 it is one after a pass, which
leaves CURSOR = 0 and the sink's record as it was. -/
theorem pullServesOneSample : Obligations.PullServesOneSample := by
  refine fun s => ⟨fun x hlt hx => ⟨s.deliver x, ?_, rfl, deliver_cursor_toNat hlt x⟩, fun u hend hu => ?_⟩
  · have hne : s.cursor ≠ 256 := fun h => by simp [h] at hlt
    rw [pull_buffered hne, serve_of_read hx]
  · have hc : s.cursor = 256 := BitVec.eq_of_toNat_eq hend
    obtain ⟨x, hx⟩ := Option.isSome_iff_exists.mp (bufRead_isSome u 0)
    obtain ⟨-, hcursor, -, -, -, hframe⟩ := passWritesTheBlock s.now s u hu
    have hsink : u.sink = s.sink := by rw [hframe]
    refine ⟨x, hx, ?_⟩
    rw [pull_exhausted hc, hu, andThen_next, ← pull_buffered (by rw [hcursor]; decide),
      pull_of_cursor_zero hcursor hx, hsink]

end Sys2Proof.Machine
end

section
/-! PROOFS. 60_exceptions.md: in a state with the invariant every part of a transaction answers, so no step stops and no
run does. -/

namespace Sys2Proof.Machine

/-- A sequence goes on where its first part does, and its second from the state the first leaves. -/
theorem runs_andThen {r : Result} {f : State → Result} (hr : Runs r) (hf : ∀ u, r = .next u → Runs (f u)) :
    Runs (andThen r f) := by
  obtain ⟨u, rfl⟩ := hr
  exact hf u rfl

/-- A transfer goes on while CURSOR is inside BUF (R61, R220). -/
theorem serve_runs {s : State} (h : s.cursor.toNat < 256) : Runs (serve s) := by
  obtain ⟨x, hx⟩ := Option.isSome_iff_exists.mp ((bufRead_isSome s _).trans (decide_eq_true h))
  exact ⟨_, serve_of_read hx⟩

/-- A pass leaves CURSOR inside BUF, so a transfer can follow it (R229). -/
theorem serve_runs_after_pass {time : Ticks} {s u : State} (h : renderPass time s = .next u) : Runs (serve u) := by
  obtain ⟨-, hcursor, -⟩ := passWritesTheBlock time s u h
  exact serve_runs (by rw [hcursor]; decide)

/-- Pieces of work keep the invariant. -/
theorem Works.keeps_inv {w : Option Word} {s t : State} (h : Works w s t) (hs : s.Inv) : t.Inv :=
  h.keeps (fun _ _ => Work.keeps_inv) hs

section
variable {s : State} (hs : s.Inv)
include hs

/-! ## The parts of a transaction go on -/

/-- Every command goes on (`commandsNeverFail`). -/
theorem State.Inv.exec_runs (i : Instr) : Runs (exec i s) := commandsNeverFail i s hs.legal hs.slots_length

/-- Every render pass goes on: RSQRT has an entry for each legal N and for each count of voices (R204, R246). -/
theorem State.Inv.pass_runs (time : Ticks) : Runs (renderPass time s) := by
  obtain ⟨-, ⟨hn, hn8⟩, ⟨-, hv⟩, -⟩ := hs.legal
  exact renderPass_runs time s ⟨hn, by omega⟩ hs.slots_length hv

/-- A CURSOR other than 256 is inside BUF (R31). -/
theorem State.Inv.cursor_lt (h : s.cursor ≠ 256) : s.cursor.toNat < 256 :=
  lt_of_le_of_ne hs.cursor_le fun heq => h (BitVec.eq_of_toNat_eq heq)

/-- Waiting for a pass goes on (R71, R230). -/
theorem State.Inv.settle_runs : Runs (settle s) := by
  cases hp : s.pass with
  | none => exact ⟨s, settle_idle hp⟩
  | some f => exact settle_busy hp ▸ hs.pass_runs f.time

/-- A pull goes on: the buffer holds a sample, or a pass fills it first (R220). -/
theorem State.Inv.pull_runs : Runs (pull s) := by
  by_cases hc : s.cursor = 256
  · rw [pull_exhausted hc]
    exact runs_andThen (hs.pass_runs s.now) fun _ => serve_runs_after_pass
  · rw [pull_buffered hc]
    exact serve_runs (hs.cursor_lt hc)

/-! ## The parts of a clock edge go on -/

/-- The command port goes on (R91). -/
theorem State.Inv.edgeCommand_runs (p : Pins) : Runs (edgeCommand p s) := by
  unfold edgeCommand
  split
  · exact hs.exec_runs _
  · exact ⟨s, rfl⟩

/-- The edges of a pass go on: all but the last count down, and the last is the pass (R230, R275). -/
theorem State.Inv.edgePass_runs (f : PassInFlight) : Runs (edgePass f s) := by
  unfold edgePass
  split
  · exact hs.pass_runs f.time
  · exact ⟨_, rfl⟩

/-- The output port goes on: a sample asked for is there, or triggers a pass (R92, R221). -/
theorem State.Inv.edgeOutput_runs (p : Pins) : Runs (edgeOutput p s) := by
  cases ho : p.outReady with
  | false => exact ⟨s, edgeOutput_notReady s ho⟩
  | true =>
    by_cases hc : s.cursor = 256
    · exact ⟨_, edgeOutput_trigger ho hc⟩
    · rw [edgeOutput_transfer ho (hs.cursor_lt hc)]
      exact serve_runs (hs.cursor_lt hc)

/-- The render engine and the output port go on. -/
theorem State.Inv.edgeEngine_runs (p : Pins) : Runs (edgeEngine p s) := by
  unfold edgeEngine
  split
  · exact hs.edgePass_runs _
  · exact hs.edgeOutput_runs p

/-- Every clock edge goes on: a reset, or its parts in order, each in a state with the invariant (R244). -/
theorem State.Inv.edge_runs (p : Pins) : Runs (edge p s) := by
  cases hr : p.rst with
  | true => exact ⟨_, edge_reset hr⟩
  | false =>
    rw [edge_run hr]
    refine runs_andThen (runs_andThen (hs.edgeCommand_runs p) fun u hu => ?_) fun v _ => ⟨_, edgeTick_eq p v⟩
    exact ((edgeCommand_works hu).keeps_inv hs).edgeEngine_runs p

/-! ## Steps and runs (R240, R246, R247) -/

/-- Every event goes on. -/
theorem State.Inv.transact_runs (e : Event) : Runs (transact e s) := by
  have hsettled {u : State} (hu : settle s = .next u) : u.Inv := (settle_works none hu).keeps_inv hs
  cases e with
  | command w => exact runs_andThen hs.settle_runs fun u hu => (hsettled hu).exec_runs _
  | pull => exact runs_andThen hs.settle_runs fun u hu => (hsettled hu).pull_runs
  | tick k => exact ⟨_, rfl⟩
  | reset => exact ⟨_, rfl⟩
  | edge p => exact hs.edge_runs p

/-- Every step goes on: it is idle, or takes up one event. -/
theorem State.Inv.step_runs : Runs (step s) := by
  cases ha : s.agenda with
  | nil => exact ⟨s, step_idle hs.legal hs.cursor_le ha⟩
  | cons e rest =>
    have hrest : (s.setAgenda rest).Inv := hs.of_same rfl
    exact step_of_event hs.legal hs.cursor_le ha ▸ hrest.transact_runs e

end

/-- A run of any length from a state with the invariant goes on, and ends in one. -/
theorem State.Inv.stepMany_runs (k : Nat) {s : State} (hs : s.Inv) : ∃ t, stepMany k s = .next t ∧ t.Inv := by
  induction k generalizing s with
  | zero => exact ⟨s, rfl, hs⟩
  | succ k ih =>
    obtain ⟨u, hu⟩ := hs.step_runs
    rw [stepMany, hu, andThen_next]
    exact ih (stepKeepsTheInvariant s u hs hu)

/-- Settles O57: the invariant does not read the agenda, and every step goes on from it (`State.Inv.step_runs`). -/
theorem stepNeverStops : Obligations.StepNeverStops := fun s es hs =>
  State.Inv.step_runs (s := s.setAgenda es) (hs.of_same rfl)

/-- Settles O58, by induction on the steps from the reset state, which meets the invariant
(`State.Inv.stepMany_runs`). -/
theorem everyRunGoesOn : Obligations.EveryRunGoesOn := fun c es k hc =>
  (resetMeetsTheInvariant c es hc).1.stepMany_runs k

end Sys2Proof.Machine
end

section
/-! PROOFS. 70_reset_and_hazards.md: an edge with `rst = 1`, and the first pull after a reset. -/

namespace Sys2Proof.Machine

/-! ## An edge with rst = 1 (R93, R244, R260) -/

/-- While `rst = 1` no command is accepted (R91). -/
theorem cmdReady_of_rst {p : Pins} (s : State) (h : p.rst = true) : cmdReady p s = false := by
  simp [cmdReady, h]

/-- While `rst = 1` no sample is offered (R92). -/
theorem outValid_of_rst {p : Pins} (s : State) (h : p.rst = true) : outValid p s = false := by
  simp [outValid, h]

/-- While `rst = 1` the status outputs are those of the reset state (R93). -/
theorem statusOut_of_rst {p : Pins} (s : State) (h : p.rst = true) : statusOut p s = statusOf s.resetBlock :=
  if_pos h

/-- Settles O12: the edge is a reset (`edge_reset`), which keeps the count of edges, so it may be counted first. -/
theorem resetWinsAtAnEdge : Obligations.ResetWinsAtAnEdge := fun s _ h =>
  ⟨edge_reset h, cmdReady_of_rst s h, outValid_of_rst s h, outData_idle (outValid_of_rst s h),
    s.resetBlock, rfl, statusOut_of_rst s h⟩

/-! ## The first pull after a reset (R262) -/

/-- With no voice in the slots, a pull that finds the buffer exhausted serves the first of 256 zeros: the pass runs
(`State.Inv.pass_runs`) with nothing to mix (`passWithNothingToMixIsSilent`). -/
theorem State.Inv.pull_silent {s : State} (hs : s.Inv) (hp : s.pass = none) (hc : s.cursor = 256)
    (hempty : ∀ v, some v ∉ s.slots) :
    ∃ t, transact .pull s = .next t ∧ t.buf.length = 256 ∧ (∀ x ∈ t.buf, x = 0) ∧ t.nsamp = s.nsamp + 256 ∧
      t.cursor = 1 := by
  obtain ⟨u, hu⟩ := hs.pass_runs s.now
  obtain ⟨hlen, hzero, -⟩ := passWithNothingToMixIsSilent s.now s u hu fun v hv => absurd hv (hempty v)
  obtain ⟨-, -, -, hnsamp, -⟩ := passWritesTheBlock s.now s u hu
  obtain ⟨x, -, hpull⟩ := (pullServesOneSample s).2 u (by rw [hc]; rfl) hu
  exact ⟨_, (transact_pull_idle hp).trans hpull, hlen, hzero, hnsamp, rfl⟩

/-- Settles O13: ticks leave a reset state with no voice and its CURSOR at 256, so the pull is silent
(`State.Inv.pull_silent`). -/
theorem firstPassAfterResetIsSilent : Obligations.FirstPassAfterResetIsSilent := by
  intro c k hc
  have hs : ((State.resetWith c).advanceNow k).Inv := (resetWith_inv hc).of_same rfl
  have hempty (v : Voice) : some v ∉ ((State.resetWith c).advanceNow k).slots := by simp [State.resetWith]
  obtain ⟨t, hpull, hlen, hzero, hnsamp, hcursor⟩ := hs.pull_silent rfl rfl hempty
  exact ⟨_, t, transact_tick k _, BitVec.zero_add _, rfl, rfl, transact_pull_exhausted rfl rfl, hpull, hlen, hzero,
    hnsamp, hcursor⟩

end Sys2Proof.Machine
end
